-- ==== Sys2Proof/Word.lean ====
section
/-! DEFINITION. The bit-vector types of the part: the 32-bit word with four byte lanes, the 24-bit word address,
the four lane enables, the byte of a setup link frame, the 16-bit counter. -/

namespace Sys2Proof

/-- A 32-bit memory word, lane `i` in bits `8i+7..8i` (R171). -/
abbrev Word := BitVec 32

/-- A byte of a setup link frame. -/
abbrev Byte := BitVec 8

/-- A word address of the memory, 0..16,777,215 (00_scope, Table 0.2). -/
abbrev Addr := BitVec 24

/-- A set of byte lanes: bit `i` stands for lane `i` (byte enables, masks, covered lanes). -/
abbrev Lanes := BitVec 4

/-- A 16-bit quantity: a counter, an epoch number, a history serial. -/
abbrev Half := BitVec 16

/-- One setup link frame of eight bytes, byte 0 in bits 63..56, sent most significant bit first (R149). -/
abbrev Frame := BitVec 64

end Sys2Proof
end

