-- ==== Sys2Proof/Syntax.lean ====
section
/-! DEFINITION. The commands of the block: one constructor per row of spec/opcode_table.json.
A command is something that reaches the part (an access, a frame, a line, an answer of memory) or one of the part's own
instants that the table lists as a step (an expiry, a commit point, a drain end). -/

namespace Sys2Proof

/-- A commit domain, 0 or 1. -/
inductive Dom where
  | d0
  | d1
  deriving DecidableEq, Repr

/-- The levels of the discrete input lines as they stand when RESET_N is released or the part powers up
(R67, R149, R173: the lines are taken at their present levels); `true` is high. -/
structure Lines where
  sampleN0 : Bool
  sampleN1 : Bool
  epochIn0 : Bool
  epochIn1 : Bool
  slSelN   : Bool
  deriving DecidableEq, Repr

/-- What an upstream port captures at a read beside the word address: the byte enables and the levels of X_WDATA, which a pass-through
read carries on to memory (R170, R172). -/
structure ReadLines where
  be   : Lanes
  data : Word
  deriving DecidableEq, Repr

/-- The commands. An access carries what the port captures: word address, byte enables, the levels of X_WDATA (R170). A torn frame
carries the levels of SL_DI at its SL_CLK edges (R149). A setup link command carries its argument byte, its data bytes 2..5 and
its tag as received, used or not (Table 10.3); byte 7, the check byte, is right by the row (R152 has its own row). -/
inductive Instr where
  -- upstream ports
  | writerPortWrite (addr : Addr) (be : Lanes) (data : Word)
  | writerPortRead (addr : Addr) (lines : ReadLines)
  | consumerPortRead (addr : Addr) (lines : ReadLines)
  | consumerPortWrite (addr : Addr) (be : Lanes) (data : Word)
  -- memory port
  | memoryGrant
  | memoryAnswer (err : Bool) (rdata : Word)
  | memTimeoutExpiry
  -- timers and lines
  | epochTimerExpiry (d : Dom)
  | epochInRisingEdge (d : Dom)
  | sampleNLevelChange (d : Dom) (level : Bool)
  | groupHoldExpiry (d : Dom)
  | sampleHoldExpiry (d : Dom)
  | writeHoldExpiry
  -- the part's own instants
  | commitPoint (d : Dom)
  | placeHeldWrite
  | heldWriteRelease
  | drainBankBegin
  | drainEnd
  | restartCompletion
  -- reset
  | resetNAssertion
  | resetNRelease (lines : Lines)
  | powerUp (resetN : Bool) (lines : Lines)
  -- setup link frames that carry no command the part executes
  | tornFrame (bits : List Bool)
  | frameCheckFail (frame : Frame)
  | unknownCommand (code arg : Byte) (data : Word) (tag : Byte)
  -- setup link commands
  | nop (arg : Byte) (data : Word) (tag : Byte)
  | readParam (arg : Byte) (data : Word) (tag : Byte)
  | writeParam (arg : Byte) (data : Word) (tag : Byte)
  | writeTimerRun (d : Dom) (value : Word) (tag : Byte)
  | writeEventEnable (value : Word) (tag : Byte)
  | readState (arg : Byte) (data : Word) (tag : Byte)
  | readEvent (arg : Byte) (data : Word) (tag : Byte)
  | ackEvent (arg : Byte) (data : Word) (tag : Byte)
  | readCounter (arg : Byte) (data : Word) (tag : Byte)
  | clearCounters (arg : Byte) (data : Word) (tag : Byte)
  | readHistory (arg : Byte) (data : Word) (tag : Byte)
  | readResetRecord (arg : Byte) (data : Word) (tag : Byte)
  | start (arg : Byte) (data : Word) (tag : Byte)
  | stop (arg : Byte) (data : Word) (tag : Byte)
  | close (arg : Byte) (data : Word) (tag : Byte)
  | discard (arg : Byte) (data : Word) (tag : Byte)
  | restart (arg : Byte) (data : Word) (tag : Byte)
  -- the line event the table lists last
  | epochInFallingLevel (d : Dom)
  deriving DecidableEq, Repr

end Sys2Proof
end

