-- ==== Sys2Proof/Config.lean ====
section
/-! DEFINITION. What the part fixes: sizes of the blocks, identity parameters, reset values of the parameters.
The manual leaves no RESULT of a command open, so there is no free value here (see INVENTORY.md). -/

namespace Sys2Proof.Config

/-- Slots of the entry pool (R1). -/
def poolSize : Nat := 512

/-- Records of the commit history (R133). -/
def ringSize : Nat := 16

/-- The largest merged count of a pending boundary (R35). -/
def mergedMax : Nat := 15

/-- A requester whose wait count is at least this is guarded (R109). -/
def guardCount : Nat := 8

/-- PART_ID, REVISION and POOL_SIZE (R164). -/
def partId : Word := 0x226
def revision : Word := 3
def poolSizeWord : Word := 512

/-- Reset values of Table 11.1. -/
def tickDivReset : BitVec 10 := 100
def memTimeoutReset : Byte := 16
def quotaReset : BitVec 10 := 256
def writeHoldReset : Byte := 50
def periodReset : Half := 1000
def groupHoldReset : Byte := 20
def sampleHoldReset : Byte := 100

end Sys2Proof.Config
end

