-- ==== Sys2Proof/Machine/State.lean ====
section
/-! DEFINITION. The state of the part as plain data, its faults and refusals, and the state after reset. -/

namespace Sys2Proof.Machine

/-! ### The journal (chapter 01) -/

/-- A journal entry (Table 1.1). Its position is its place in the bank's list. -/
structure Entry where
  addr : Addr
  data : Word
  mask : Lanes
  tag  : Option (Fin 16)
  deriving DecidableEq, Repr

/-- A bank: its entries in the order of the first writes (R4). -/
abbrev Bank := List Entry

/-- Why the held write waits (Table 1.3). -/
inductive HeldReason where
  | space
  | flush
  | restart
  deriving DecidableEq, Repr

/-- The held write record (Table 1.3); `left` is what is left of its WRITE_HOLD limit, in ticks (R16, R26). -/
structure HeldWrite where
  addr   : Addr
  be     : Lanes
  data   : Word
  dom    : Dom
  reason : HeldReason
  start  : Nat
  left   : Nat
  deriving DecidableEq, Repr

/-- FULL_POLICY_d (R14). -/
inductive FullPolicy where
  | wait
  | early
  | refuse
  deriving DecidableEq, Repr

/-! ### Epoch boundaries (chapter 02) -/

/-- The cause of one boundary request (Table 2.1). -/
inductive Cause where
  | timer
  | line
  | fill
  | link
  | stop
  deriving DecidableEq, Repr

/-- The set of causes of a pending boundary or a history record. -/
structure Causes where
  timer : Bool
  line  : Bool
  fill  : Bool
  link  : Bool
  stop  : Bool
  deriving DecidableEq, Repr

/-- The pending boundary record (Table 2.2). -/
structure Boundary where
  causes        : Causes
  merged        : Nat
  requestTick   : Nat
  final         : Bool
  groupExpired  : Bool
  sampleExpired : Bool
  deriving DecidableEq, Repr

/-- The scheduler of a domain (Table 2.3): the record is present outside IDLE, and in SETTLE the two hold limits run
(`some n`, `n` ticks left) until they expire (`none`). -/
inductive Sched where
  | idle
  | drainWait (b : Boundary)
  | settle (b : Boundary) (groupLeft sampleLeft : Option Nat)
  deriving DecidableEq, Repr

/-- The state of a domain (R119). FLUSHING carries whether the final commit point has passed (Table 7.3): after a RESTART has
dropped a FINAL boundary the scheduler alone does not tell (R126). -/
inductive DomState where
  | off
  | active
  | flushing (finalPassed : Bool)
  deriving DecidableEq, Repr

/-- The eight settings of a domain (Table 11.1). -/
structure DomParams where
  quota      : BitVec 10
  policy     : FullPolicy
  writeHold  : Byte
  period     : Half
  timerRun   : Bool
  lineEn     : Bool
  groupHold  : Byte
  sampleHold : Byte
  deriving DecidableEq, Repr

/-- DRAIN_STATUS of the reset record (Table 7.7). -/
inductive DrainStatus where
  | none
  | interrupted
  | queued
  deriving DecidableEq, Repr

/-- The fields of the reset record that each domain has (Table 7.7). -/
structure LostRecord where
  openLost  : Nat
  status    : DrainStatus
  epoch     : Half
  written   : Nat
  unwritten : Nat
  deriving DecidableEq, Repr

/-- What the part holds for one domain. `timer` is the epoch timer: stopped, or the ticks left of its period (R27, R28).
`sampleN`, `epochIn` and `commitOut` are line levels (`true` high); `counters` are those of Table 11.2 by index. -/
structure Domain where
  state     : DomState
  openBank  : Bank
  drainBank : Bank
  epoch     : Half
  sched     : Sched
  timer     : Option Nat
  commitOut : Bool
  sampleN   : Bool
  epochIn   : Bool
  counters  : Vector Half 11
  params    : DomParams
  lost      : LostRecord
  deriving DecidableEq, Repr

/-! ### Groups and windows (chapters 03 and 07) -/

/-- A group table entry (Table 3.1). -/
structure Group where
  enable : Bool
  window : Fin 8
  offset : Half
  length : BitVec 5
  deriving DecidableEq, Repr

/-- The state of a group (section 3.2). -/
inductive GroupState where
  | closed
  | opened
  | complete
  deriving DecidableEq, Repr

/-- A window table entry (Table 7.1): the window covers 2^k words from its base. -/
structure Window where
  enable : Bool
  dom    : Dom
  k      : BitVec 5
  base   : Addr
  deriving DecidableEq, Repr

/-! ### Reads, drains and the memory port (chapters 05, 06 and 12) -/

/-- The path of a read, fixed at its acceptance (Table 5.1). -/
inductive ReadPath where
  | resolved (d : Dom)
  | passThrough
  deriving DecidableEq, Repr

/-- A read record in MEMORY_WAIT (Table 5.1); LOOKUP takes no time (Table 5.2). -/
structure ReadRecord where
  addr    : Addr
  path    : ReadPath
  covered : Lanes
  bytes   : Word
  fenced  : Bool
  deriving DecidableEq, Repr

/-- The phase of a drain queue element (Table 6.1). -/
inductive Phase where
  | queued
  | draining
  deriving DecidableEq, Repr

/-- A drain queue element (Table 6.1). -/
structure Element where
  dom       : Dom
  epoch     : Half
  serial    : Half
  fence     : Bool
  phase     : Phase
  committed : Nat
  retired   : Nat
  deriving DecidableEq, Repr

/-- The state of the drain engine (R98). -/
inductive Engine where
  | idle
  | writing
  deriving DecidableEq, Repr

/-- The requesters of the memory arbiter (Table 6.3). -/
inductive Requester where
  | cp
  | drain
  | wp
  deriving DecidableEq, Repr

/-- A request presented to the arbiter: what MP carries when it is issued (R172). -/
structure Request where
  write : Bool
  addr  : Addr
  be    : Lanes
  data  : Word
  deriving DecidableEq, Repr

/-- The access outstanding on the memory port, with what is left of its MEM_TIMEOUT limit in ticks (R110); 0 means the
limit has expired and the withdrawal is due at the next edge of CLK (R111). -/
structure Outstanding where
  who  : Requester
  req  : Request
  left : Nat
  deriving DecidableEq, Repr

/-- A grant made in the CLK period of MP_CANCEL, whose access is issued when that period is over (R111, R172). -/
structure Granted where
  who : Requester
  req : Request
  deriving DecidableEq, Repr

/-- The memory arbiter: the requests presented, the wait counts (R109), the access on the port, the grant not yet issued, and
MP_CANCEL (R172). -/
structure Arbiter where
  cpReq     : Option Request
  drainReq  : Option Request
  wpReq     : Option Request
  cpWait    : Nat
  drainWait : Nat
  wpWait    : Nat
  mp        : Option Outstanding
  granted   : Option Granted
  cancel    : Bool
  deriving DecidableEq, Repr

/-- The answer of an access: X_ERR and X_RDATA in the period of X_DONE (R170). -/
structure Answer where
  err   : Bool
  rdata : Word
  deriving DecidableEq, Repr

/-- An upstream port (R170): whether an access is outstanding, and the answer in the CLK period in which X_DONE is high; with
X_DONE low the answer lines carry nothing. -/
structure Port where
  busy   : Bool
  answer : Option Answer
  deriving DecidableEq, Repr

/-! ### History, events, link, time base, device (chapters 08, 09, 10, 02 and 07) -/

/-- The drain state of a history record (Table 8.1). -/
inductive DrainState where
  | pending
  | done
  | notNeeded
  deriving DecidableEq, Repr

/-- A record of the commit history (Table 8.1); valid is the record's presence in the ring. -/
structure HistoryRecord where
  serial         : Half
  dom            : Dom
  epoch          : Half
  causes         : Causes
  merged         : Nat
  final          : Bool
  empty          : Bool
  sampleOverride : Bool
  abandoned      : Nat
  committed      : Nat
  waitTicks      : Nat
  drain          : DrainState
  lost           : Nat
  deriving DecidableEq, Repr

/-- An event record (R141). -/
structure EventRecord where
  pending : Bool
  count   : BitVec 4
  deriving DecidableEq, Repr

/-- Result codes (Table 10.2). -/
inductive Result where
  | ok
  | none
  | checkFail
  | unknown
  | badArgument
  | locked
  | state
  | stale
  | invalidTable
  | restarting
  deriving DecidableEq, Repr

/-- The response buffer (R153). -/
structure Response where
  result  : Result
  flags   : BitVec 4
  command : Byte
  data    : Word
  tag     : Byte
  deriving DecidableEq, Repr

/-- The state of the setup link interface (Table 10.1). -/
inductive LinkState where
  | deselected
  | receiving
  deriving DecidableEq, Repr

/-- The setup link interface (R149): its state, the level of SL_SEL_N taken, the bit count, the bits kept of those sampled since the
last fall of SL_SEL_N (first first, at most 64), the levels SL_DO presented at the rising edges of SL_CLK since that fall, the
level SL_DO is driven to (`none`: not driven, Table 10.1), and the response buffer. A frame is one command, which takes the
interface through RECEIVING and back to DESELECTED (log 8). -/
structure Link where
  state     : LinkState
  selN      : Bool
  bitCount  : Nat
  kept      : List Bool
  presented : List Bool
  slDo      : Option Bool
  response  : Response
  deriving DecidableEq, Repr

/-- The time base (R25): ticks ended, CLK periods of the tick in progress, and its length in CLK periods. -/
structure TimeBase where
  tick    : Nat
  clk     : Nat
  tickLen : BitVec 10
  deriving DecidableEq, Repr

/-- The device state (R119). -/
inductive DeviceState where
  | running
  | restarting
  deriving DecidableEq, Repr

/-- Everything the part holds, and the queue of commands that wait. `resetN` is the level of RESET_N. -/
structure State where
  resetN      : Bool
  device      : DeviceState
  dom0        : Domain
  dom1        : Domain
  free        : Nat
  held        : Option HeldWrite
  windows     : Vector Window 8
  groups      : Vector Group 16
  groupStates : Vector GroupState 16
  queue       : List Element
  engine      : Engine
  arb         : Arbiter
  wp          : Port
  cp          : Port
  wpRead      : Option ReadRecord
  cpRead      : Option ReadRecord
  history     : List HistoryRecord
  serial      : Half
  events      : Vector EventRecord 18
  eventEnable : BitVec 18
  devCounters : Vector Half 3
  tickDiv     : BitVec 10
  memTimeout  : Byte
  time        : TimeBase
  recValid    : Bool
  recHeldLost : Bool
  link        : Link
  pending     : List Instr
  deriving DecidableEq, Repr

/-- No command makes the part stop: the manual answers ERR or a result code and goes on. Nothing raises a fault. -/
inductive Fault : Type
  deriving DecidableEq, Repr

/-- Reasons to refuse a command. -/
inductive Refusal where
  /-- Raised by `exec` for a row that has no meaning yet; every row has one, so nothing raises it. Safe. -/
  | notModelled (mnemonic : String)
  deriving DecidableEq, Repr

/-! ### Reset values -/

/-- Reset values of a domain's parameters (Table 11.1). -/
def DomParams.reset : DomParams where
  quota := Config.quotaReset
  policy := .wait
  writeHold := Config.writeHoldReset
  period := Config.periodReset
  timerRun := false
  lineEn := false
  groupHold := Config.groupHoldReset
  sampleHold := Config.sampleHoldReset

/-- A domain's part of the reset record as power-up clears it (R132). -/
def LostRecord.cleared : LostRecord where
  openLost := 0
  status := .none
  epoch := 0
  written := 0
  unwritten := 0

/-- A domain after reset (R23, R42, R77, R119). The line levels are those of lines at rest: SAMPLE_N high, EPOCH_IN low
(DESIGN CHOICE, log 10). -/
def Domain.reset : Domain where
  state := .off
  openBank := []
  drainBank := []
  epoch := 0
  sched := .idle
  timer := none
  commitOut := false
  sampleN := true
  epochIn := false
  counters := Vector.replicate 11 0
  params := .reset
  lost := .cleared

/-- R114. -/
def Window.reset : Window where
  enable := false
  dom := .d0
  k := 2
  base := 0

/-- R52. -/
def Group.reset : Group where
  enable := false
  window := 0
  offset := 0
  length := 2

/-- R113, R173. -/
def Arbiter.reset : Arbiter where
  cpReq := none
  drainReq := none
  wpReq := none
  cpWait := 0
  drainWait := 0
  wpWait := 0
  mp := none
  granted := none
  cancel := false

/-- R173. -/
def Port.reset : Port where
  busy := false
  answer := none

/-- R153. -/
def Response.reset : Response where
  result := .none
  flags := 0
  command := 0
  data := 0
  tag := 0

/-- R149, R153, Table 10.1; the level of SL_SEL_N is that of the line at rest, and bit count 0 and no kept or presented bits are
DESIGN CHOICE (log 10). -/
def Link.reset : Link where
  state := .deselected
  selN := true
  bitCount := 0
  kept := []
  presented := []
  slDo := none
  response := .reset

/-- R25: a new tick begins, and ticks are counted from that moment. -/
def TimeBase.reset : TimeBase where
  tick := 0
  clk := 0
  tickLen := Config.tickDivReset

/-- The part right after a power-up with RESET_N high and the lines at rest (R23, R42, R66, R77, R106, R113, R114, R130,
R132, R133, R147, R153, R163, R168), no command waiting. -/
def State.reset : State where
  resetN := true
  device := .running
  dom0 := .reset
  dom1 := .reset
  free := Config.poolSize
  held := none
  windows := Vector.replicate 8 .reset
  groups := Vector.replicate 16 .reset
  groupStates := Vector.replicate 16 .closed
  queue := []
  engine := .idle
  arb := .reset
  wp := .reset
  cp := .reset
  wpRead := none
  cpRead := none
  history := []
  serial := 0
  events := Vector.replicate 18 ⟨false, 0⟩
  eventEnable := 0
  devCounters := Vector.replicate 3 0
  tickDiv := Config.tickDivReset
  memTimeout := Config.memTimeoutReset
  time := .reset
  recValid := false
  recHeldLost := false
  link := .reset
  pending := []

end Sys2Proof.Machine
end

