-- ==== Sys2Proof/Machine/Flags.lean ====
section
/-! DEFINITION. Access to a domain's state, the counters, the event flags and the interrupt line. -/

namespace Sys2Proof.Machine

/-! ### The two domains -/

/-- What the part holds for domain `d`. -/
def State.dom (s : State) : Dom → Domain
  | .d0 => s.dom0
  | .d1 => s.dom1

/-- Replace what the part holds for domain `d`. -/
def State.setDom (s : State) (d : Dom) (x : Domain) : State :=
  match d with
  | .d0 => { s with dom0 := x }
  | .d1 => { s with dom1 := x }

/-- Change what the part holds for domain `d`. -/
def State.updDom (s : State) (d : Dom) (f : Domain → Domain) : State :=
  s.setDom d (f (s.dom d))

/-- The domain a number names. -/
def domOfNat? : Nat → Option Dom
  | 0 => some .d0
  | 1 => some .d1
  | _ => none

/-- The number of a domain, one bit. -/
def domBit : Dom → Bool
  | .d0 => false
  | .d1 => true

/-- The domain one bit names. -/
def domOfBit : Bool → Dom
  | false => .d0
  | true => .d1

/-- A domain is in use while it is ACTIVE or FLUSHING (R119). -/
def State.inUse (s : State) (d : Dom) : Bool :=
  decide ((s.dom d).state ≠ .off)

/-! ### Counters (R24, R168) -/

/-- Add to a 16-bit counter that stays at 65,535. -/
def satAdd (c : Half) (n : Nat) : Half :=
  if 65535 < c.toNat + n then 65535 else BitVec.ofNat 16 (c.toNat + n)

/-- The eleven counters of a domain (Table 11.2). -/
inductive DomCounter where
  | commits
  | merged
  | journaled
  | coalesced
  | holds
  | writeFails
  | discarded
  | abandoned
  | overrides
  | cpRefusals
  | lostEntries
  deriving DecidableEq, Repr

/-- The index of Table 11.2. -/
def DomCounter.idx : DomCounter → Fin 11
  | commits => 0
  | merged => 1
  | journaled => 2
  | coalesced => 3
  | holds => 4
  | writeFails => 5
  | discarded => 6
  | abandoned => 7
  | overrides => 8
  | cpRefusals => 9
  | lostEntries => 10

/-- The three counters of the device (Table 11.2, domain 2). -/
inductive DevCounter where
  | tornFrames
  | checkFails
  | passErrors
  deriving DecidableEq, Repr

/-- The index of Table 11.2. -/
def DevCounter.idx : DevCounter → Fin 3
  | tornFrames => 0
  | checkFails => 1
  | passErrors => 2

/-- The value of a counter of domain `d`. -/
def State.counter (s : State) (d : Dom) (c : DomCounter) : Half :=
  (s.dom d).counters[c.idx]

/-- The value of a counter of the device. -/
def State.devCounter (s : State) (c : DevCounter) : Half :=
  s.devCounters[c.idx]

/-- Add `n` to a counter of domain `d` (R168). -/
def State.bump (s : State) (d : Dom) (c : DomCounter) (n : Nat) : State :=
  s.updDom d fun x => { x with counters := x.counters.set c.idx (satAdd x.counters[c.idx] n) }

/-- Add one to a counter of the device (R168). -/
def State.bumpDev (s : State) (c : DevCounter) : State :=
  { s with devCounters := s.devCounters.set c.idx (satAdd s.devCounters[c.idx] 1) }

/-- Set the eleven counters of domain `d` to 0 (R169). -/
def State.clearDomCounters (s : State) (d : Dom) : State :=
  s.updDom d fun x => { x with counters := Vector.replicate 11 0 }

/-- Set the three counters of the device to 0 (R169). -/
def State.clearDevCounters (s : State) : State :=
  { s with devCounters := Vector.replicate 3 0 }

/-- Set all 25 counters to 0 (R169, R128 step 4). -/
def State.clearAllCounters (s : State) : State :=
  ((s.clearDomCounters .d0).clearDomCounters .d1).clearDevCounters

/-! ### Events (chapter 09) -/

/-- The eight events each domain has (Table 9.1). -/
inductive DomEvent where
  | commit
  | drained
  | merged
  | writeFail
  | groupAbandoned
  | sampleOverride
  | cpRefused
  | memError
  deriving DecidableEq, Repr

/-- The 18 events (Table 9.1). -/
inductive Event where
  | dom (d : Dom) (e : DomEvent)
  | linkError
  | restartDone
  deriving DecidableEq, Repr

/-- The index of a domain's event within its eight. -/
def DomEvent.offset : DomEvent → Fin 8
  | commit => 0
  | drained => 1
  | merged => 2
  | writeFail => 3
  | groupAbandoned => 4
  | sampleOverride => 5
  | cpRefused => 6
  | memError => 7

/-- The event index of Table 9.1. -/
def Event.idx : Event → Fin 18
  | .dom .d0 e => ⟨e.offset, by omega⟩
  | .dom .d1 e => ⟨8 + e.offset, by omega⟩
  | .linkError => 16
  | .restartDone => 17

/-- An occurrence: the count rises by one, wrapping, and the event is pending (R141). -/
def EventRecord.occur (r : EventRecord) : EventRecord :=
  ⟨true, r.count + 1⟩

/-- One occurrence of event `e` (R141). -/
def State.raise (s : State) (e : Event) : State :=
  { s with events := s.events.set e.idx s.events[e.idx].occur }

/-- The record of event `e`. -/
def State.event (s : State) (e : Event) : EventRecord :=
  s.events[e.idx]

/-- Every pending flag cleared, every count 0 (R147). -/
def State.clearEvents (s : State) : State :=
  { s with events := Vector.replicate 18 ⟨false, 0⟩ }

/-- Event `i` is both pending and enabled (R143). -/
def State.interrupting (s : State) (i : Fin 18) : Bool :=
  s.events[i].pending && s.eventEnable.getLsbD i

/-- The level of IRQ_N: low while an event is both pending and enabled, high while none is and while RESET_N is low
(R143, R173). -/
def State.irqN (s : State) : Bool :=
  !(s.resetN && (List.finRange 18).any s.interrupting)

end Sys2Proof.Machine
end

