-- ==== Sys2Proof/Machine/Operands.lean ====
section
/-! DEFINITION. What an address and a table index stand for: byte lanes, windows, groups, the classification of an
access, the table checks of START. -/

namespace Sys2Proof.Machine

/-! ### Byte lanes (R171) -/

/-- The bits of a word that a set of lanes covers. -/
def laneMask (l : Lanes) : Word :=
  let b (i : Nat) : BitVec 8 := if l.getLsbD i then 0xFF else 0
  b 3 ++ b 2 ++ b 1 ++ b 0

/-- `new` in the lanes `l`, `old` in the other lanes. -/
def laneMerge (old new : Word) (l : Lanes) : Word :=
  (new &&& laneMask l) ||| (old &&& ~~~(laneMask l))

/-! ### Windows (R114, R115) -/

/-- The number of words a window covers. -/
def Window.size (w : Window) : Nat := 2 ^ w.k.toNat

/-- An enabled window covers the 2^k addresses from its base (R114). -/
def Window.covers (w : Window) (a : Addr) : Bool :=
  w.enable && decide (w.base.toNat ≤ a.toNat) && decide (a.toNat < w.base.toNat + w.size)

/-- Two windows cover a common word address (R114). -/
def Window.overlaps (v w : Window) : Bool :=
  decide (v.base.toNat < w.base.toNat + w.size) && decide (w.base.toNat < v.base.toNat + v.size)

/-- A window is aligned when its base is a multiple of its size (R114). -/
def Window.aligned (w : Window) : Bool :=
  decide (w.base.toNat % w.size = 0)

/-- The classification of an access (R115): the domain of the lowest-numbered window that matches and whose domain is in use,
or pass-through (`none`). -/
def State.classify (s : State) (a : Addr) : Option Dom :=
  ((List.finRange 8).find? fun w => s.windows[w].covers a && s.inUse s.windows[w].dom).map
    fun w => s.windows[w].dom

/-! ### Groups (R52, R54) -/

/-- The window of a group. -/
def State.groupWindow (s : State) (g : Fin 16) : Window :=
  s.windows[s.groups[g].window]

/-- The domain of a group is that of its window (R52). -/
def State.groupDom (s : State) (g : Fin 16) : Dom :=
  (s.groupWindow g).dom

/-- A group is in force while it and its window are enabled (R52). -/
def State.inForce (s : State) (g : Fin 16) : Bool :=
  s.groups[g].enable && (s.groupWindow g).enable

/-- The first word of a group (R52). -/
def State.groupFirst (s : State) (g : Fin 16) : Nat :=
  (s.groupWindow g).base.toNat + s.groups[g].offset.toNat

/-- The closing word of a group, its last (R52). -/
def State.groupClosing (s : State) (g : Fin 16) : Nat :=
  s.groupFirst g + s.groups[g].length.toNat - 1

/-- The address is a word of group `g` (R52). -/
def State.groupHas (s : State) (g : Fin 16) (a : Addr) : Bool :=
  decide (s.groupFirst g ≤ a.toNat) && decide (a.toNat ≤ s.groupClosing g)

/-- The group in force of domain `d` that has the address as a word (R54). START leaves at most one (R53); the lowest is
taken. -/
def State.groupOf (s : State) (d : Dom) (a : Addr) : Option (Fin 16) :=
  (List.finRange 16).find? fun g => s.inForce g && decide (s.groupDom g = d) && s.groupHas g a

/-- The state of a group as it stands: a group not in force is CLOSED (R52). -/
def State.groupState (s : State) (g : Fin 16) : GroupState :=
  if s.inForce g then s.groupStates[g] else .closed

/-- The groups of domain `d` that are OPEN, in rising order. -/
def State.openGroups (s : State) (d : Dom) : List (Fin 16) :=
  (List.finRange 16).filter fun g => decide (s.groupState g = .opened) && decide (s.groupDom g = d)

/-- The group block of domain `d` (R58): at least one of its groups is OPEN. -/
def State.groupBlock (s : State) (d : Dom) : Bool :=
  !(s.openGroups d).isEmpty

/-! ### The table checks of START (R121) -/

/-- The kinds of Table 7.5. -/
inductive TableKind where
  | noWindow
  | misaligned
  | windowOverlap
  | groupOutside
  | groupOverlap
  deriving DecidableEq, Repr

/-- The windows of domain `d`: enabled, and naming it (R121). -/
def State.windowsOf (s : State) (d : Dom) : List (Fin 8) :=
  (List.finRange 8).filter fun w => s.windows[w].enable && decide (s.windows[w].dom = d)

/-- The groups of domain `d`: in force, in a window of it (R121). -/
def State.groupsOf (s : State) (d : Dom) : List (Fin 16) :=
  (List.finRange 16).filter fun g => s.inForce g && decide (s.groupDom g = d)

/-- Window `w` overlaps any other enabled window, of either domain, in use or not (R121, check 2). -/
def State.overlapsAnother (s : State) (w : Fin 8) : Bool :=
  (List.finRange 8).any fun v => decide (v ≠ w) && s.windows[v].enable && s.windows[w].overlaps s.windows[v]

/-- Groups `g` and `h` share a word (R121, check 3). -/
def State.shareWord (s : State) (g h : Fin 16) : Bool :=
  decide (s.groupFirst g ≤ s.groupClosing h) && decide (s.groupFirst h ≤ s.groupClosing g)

/-- What is wrong with window `w` (R121, check 2). -/
def State.windowFault (s : State) (w : Fin 8) : Option (TableKind × Nat) :=
  if !s.windows[w].aligned then some (.misaligned, w)
  else if s.overlapsAnother w then some (.windowOverlap, w)
  else none

/-- What is wrong with group `g` of domain `d` (R121, check 3). -/
def State.groupFault (s : State) (d : Dom) (g : Fin 16) : Option (TableKind × Nat) :=
  if (s.groupWindow g).size < s.groups[g].offset.toNat + s.groups[g].length.toNat then some (.groupOutside, g)
  else if (s.groupsOf d).any fun h => decide (h ≠ g) && s.shareWord g h then some (.groupOverlap, g)
  else none

/-- The first table check of START(d) that fails, with the index it reports (R121). -/
def State.tableFault (s : State) (d : Dom) : Option (TableKind × Nat) :=
  if (s.windowsOf d).isEmpty then some (.noWindow, 0)
  else match (s.windowsOf d).findSome? s.windowFault with
    | some f => some f
    | none => (s.groupsOf d).findSome? (s.groupFault d)

end Sys2Proof.Machine
end

