-- ==== Sys2Proof/Machine/Ops.lean ====
section
/-! DEFINITION. The shared operations of the blocks: upstream ports, journal, held write, groups, boundary requests,
commit point, drain, memory arbiter, reads, the device states. Each acts at one instant. -/

namespace Sys2Proof.Machine

/-! ### Upstream ports (R170) -/

/-- The answer of an access: X_DONE is high for the CLK period, and the port is free again. -/
def Port.answered (err : Bool) (rdata : Word) : Port where
  busy := false
  answer := some { err := err, rdata := rdata }

/-- An access is accepted: it is outstanding, and the period of an earlier answer is over (log 13). -/
def Port.accepted : Port where
  busy := true
  answer := none

/-- The CLK period of an answer ends. -/
def Port.endPeriod (p : Port) : Port :=
  { p with answer := none }

/-- The level of X_DONE. -/
def Port.done (p : Port) : Bool := p.answer.isSome

/-- The part answers the writer's access. -/
def State.answerWp (s : State) (err : Bool) (rdata : Word) : State :=
  { s with wp := .answered err rdata }

/-- The part answers the consumer's access. -/
def State.answerCp (s : State) (err : Bool) (rdata : Word) : State :=
  { s with cp := .answered err rdata }

/-- The writer port takes an access: RESET_N is high and none is outstanding (R170). A held write is one (section 1.7). -/
def State.wpAccepts (s : State) : Bool := s.resetN && !s.wp.busy

/-- The consumer port takes an access (R170). -/
def State.cpAccepts (s : State) : Bool := s.resetN && !s.cp.busy

/-- The writer's access is accepted. -/
def State.acceptWp (s : State) : State := { s with wp := .accepted }

/-- The consumer's access is accepted. -/
def State.acceptCp (s : State) : State := { s with cp := .accepted }

/-! ### Requests to the memory arbiter (R107) -/

/-- The consumer port's request is presented. -/
def State.presentCp (s : State) (r : Request) : State :=
  { s with arb := { s.arb with cpReq := some r } }

/-- The writer port's request is presented. -/
def State.presentWp (s : State) (r : Request) : State :=
  { s with arb := { s.arb with wpReq := some r } }

/-- The write of an entry as the drain engine presents it: the mask as byte enables, 0 outside it (R98). -/
def Entry.drainWrite (e : Entry) : Request where
  write := true
  addr := e.addr
  be := e.mask
  data := laneMerge 0 e.data e.mask

/-- The drain engine requests the write of the entry in position 1 of a bank, if there is one (R98, R99). Each write is a new
request, and its wait count starts from 0 (R109). -/
def State.presentDrain (s : State) (b : Bank) : State :=
  { s with arb := { s.arb with drainReq := b.head?.map Entry.drainWrite, drainWait := 0 } }

/-! ### The journal (chapter 01) and the group tracker (chapter 03) -/

/-- The entry of a bank for a word address (R4: there is at most one). -/
def Bank.lookup (b : Bank) (a : Addr) : Option Entry :=
  b.find? fun e => decide (e.addr = a)

/-- A write merges into the entry for its word (R9). -/
def Bank.coalesce (b : Bank) (a : Addr) (be : Lanes) (data : Word) : Bank :=
  b.map fun e => if e.addr = a then { e with data := laneMerge e.data data be, mask := e.mask ||| be } else e

/-- The group tracker is told of a journaled write (Table 3.2): the closing word completes the group, any other opens it;
a word of no group of the domain changes no group state (R56). -/
def State.noteWrite (s : State) (d : Dom) (a : Addr) : State :=
  match s.groupOf d a with
  | none => s
  | some g =>
    { s with groupStates :=
        s.groupStates.set g (if a.toNat = s.groupClosing g then GroupState.complete else .opened) }

/-- Every group of domain `d` goes to CLOSED (R64). -/
def State.closeGroups (s : State) (d : Dom) : State :=
  { s with groupStates := Vector.ofFn fun g => if s.groupDom g = d then .closed else s.groupStates[g] }

/-- The entry a write creates (R3). -/
def State.newEntry (s : State) (d : Dom) (a : Addr) (be : Lanes) (data : Word) : Entry where
  addr := a
  data := laneMerge 0 data be
  mask := be
  tag := s.groupOf d a

/-- A new entry can be had: the open bank is below QUOTA_d and a slot is free (R10, R17). -/
def State.hasRoom (s : State) (d : Dom) : Bool :=
  decide ((s.dom d).openBank.length < (s.dom d).params.quota.toNat) && decide (1 ≤ s.free)

/-- A slot is taken and a new entry appended, JOURNALED counted, the group tracker told (R10, R17). -/
def State.appendEntry (s : State) (d : Dom) (a : Addr) (be : Lanes) (data : Word) : State :=
  let e := s.newEntry d a be data
  let s := s.updDom d fun x => { x with openBank := x.openBank ++ [e] }
  let s := { s with free := s.free - 1 }
  let s := s.bump d .journaled 1
  s.noteWrite d a

/-- A write coalesces, COALESCED is counted, the group tracker told (R9). -/
def State.coalesceEntry (s : State) (d : Dom) (a : Addr) (be : Lanes) (data : Word) : State :=
  let s := s.updDom d fun x => { x with openBank := x.openBank.coalesce a be data }
  let s := s.bump d .coalesced 1
  s.noteWrite d a

/-- The writer's access becomes the held write (R16). -/
def State.hold (s : State) (d : Dom) (reason : HeldReason) (a : Addr) (be : Lanes) (data : Word) : State :=
  let h : HeldWrite :=
    { addr := a, be := be, data := data, dom := d, reason := reason, start := s.time.tick,
      left := (s.dom d).params.writeHold.toNat }
  ({ s with held := some h }).bump d .holds 1

/-- The open bank of domain `d` is emptied, its slots freed, DISCARDED raised by the number of entries (R21, R22). -/
def State.freeOpenBank (s : State) (d : Dom) : State :=
  let n := (s.dom d).openBank.length
  let s := s.updDom d fun x => { x with openBank := [] }
  ({ s with free := s.free + n }).bump d .discarded n

/-- What DISCARD(d) does to the journal and the groups (R21). -/
def State.discardOpen (s : State) (d : Dom) : State :=
  (s.freeOpenBank d).closeGroups d

/-! ### Boundary requests (chapter 02) -/

/-- No cause. -/
def Causes.empty : Causes := ⟨false, false, false, false, false⟩

/-- A cause joins the set. -/
def Causes.add (cs : Causes) : Cause → Causes
  | .timer => { cs with timer := true }
  | .line => { cs with line := true }
  | .fill => { cs with fill := true }
  | .link => { cs with link := true }
  | .stop => { cs with stop := true }

/-- The record a first request creates (R34). -/
def Boundary.create (c : Cause) (tick : Nat) : Boundary where
  causes := Causes.empty.add c
  merged := 0
  requestTick := tick
  final := decide (c = .stop)
  groupExpired := false
  sampleExpired := false

/-- A later request merges into the record (R35). -/
def Boundary.merge (b : Boundary) (c : Cause) : Boundary :=
  { b with
    causes := b.causes.add c
    merged := min (b.merged + 1) Config.mergedMax
    final := b.final || decide (c = .stop) }

/-- Domain `d` has an element in the drain queue. -/
def State.queued (s : State) (d : Dom) : Bool :=
  s.queue.any fun e => decide (e.dom = d)

/-- The scheduler enters SETTLE, and both hold limits start (R38). -/
def Domain.enterSettle (x : Domain) (b : Boundary) : Domain :=
  { x with sched := .settle b (some x.params.groupHold.toNat) (some x.params.sampleHold.toNat) }

/-- Domain `d` takes boundary requests (R33). -/
def State.takesRequests (s : State) (d : Dom) : Bool :=
  decide (s.device = .running) &&
    (decide ((s.dom d).state = .active) || decide ((s.dom d).state = .flushing false))

/-- A merge is counted and raised (R35). -/
def State.noteMerge (s : State) (d : Dom) : State :=
  (s.bump d .merged 1).raise (.dom d .merged)

/-- A boundary request reaches the scheduler of domain `d` (R33 to R37). -/
def State.request (s : State) (d : Dom) (c : Cause) : State :=
  if !s.takesRequests d then s
  else match (s.dom d).sched with
    | .idle =>
      let b := Boundary.create c s.time.tick
      if (s.dom d).drainBank.isEmpty && !s.queued d then s.updDom d fun x => x.enterSettle b
      else s.updDom d fun x => { x with sched := .drainWait b }
    | .drainWait b => (s.updDom d fun x => { x with sched := .drainWait (b.merge c) }).noteMerge d
    | .settle b g l => (s.updDom d fun x => { x with sched := .settle (b.merge c) g l }).noteMerge d

/-- The commit condition of a domain in SETTLE (R39). -/
def State.commitCondition (s : State) (d : Dom) (b : Boundary) : Bool :=
  (!s.groupBlock d || b.groupExpired) && ((s.dom d).sampleN || b.sampleExpired)

/-! ### The held write's ends (Table 1.4) -/

/-- The held write is presented as a pass-through write under WP, and the record is cleared (R125). -/
def State.releaseHeld (s : State) (h : HeldWrite) : State :=
  ({ s with held := none }).presentWp { write := true, addr := h.addr, be := h.be, data := h.data }

/-- The held write is placed in the open bank of its domain and answered OK (R17). -/
def State.placeHeld (s : State) (h : HeldWrite) : State :=
  (({ s with held := none }).appendEntry h.dom h.addr h.be h.data).answerWp false 0

/-- The hold limit expires: the held write is answered ERR (R18). -/
def State.expireHeld (s : State) (h : HeldWrite) : State :=
  let s := { s with held := none }
  let s := s.bump h.dom .writeFails 1
  let s := s.raise (.dom h.dom .writeFail)
  s.answerWp true 0

/-- The held write of the given domain with reason SPACE takes reason FLUSH (R19). -/
def State.heldToFlush (s : State) (d : Dom) : State :=
  { s with held := s.held.map fun h =>
      if h.dom = d ∧ h.reason = .space then { h with reason := .flush } else h }

/-- The held write takes reason RESTART (R19). -/
def State.heldToRestart (s : State) : State :=
  { s with held := s.held.map fun h => { h with reason := .restart } }

/-! ### The commit point (section 2.7) -/

/-- The consumer port has a resolved read of domain `d` in MEMORY_WAIT (R48, R88, R97). -/
def State.cpReads (s : State) (d : Dom) : Bool :=
  match s.cpRead with
  | some r => decide (r.path = .resolved d)
  | none => false

/-- An entry carries the tag of one of these groups. -/
def Entry.taggedBy (gs : List (Fin 16)) (e : Entry) : Bool :=
  match e.tag with
  | some g => gs.contains g
  | none => false

/-- The entries of the open bank that stay when the OPEN groups of domain `d` are abandoned (R60). -/
def State.keptEntries (s : State) (d : Dom) : Bank :=
  (s.dom d).openBank.filter fun e => !e.taggedBy (s.openGroups d)

/-- Step 1: the OPEN groups of domain `d` are abandoned, their entries' slots freed, ABANDONED counted once a group, the event
raised once (R60, R61). -/
def State.abandon (s : State) (d : Dom) : State :=
  let n := (s.openGroups d).length
  let kept := s.keptEntries d
  let freed := (s.dom d).openBank.length - kept.length
  let s := s.updDom d fun x => { x with openBank := kept }
  let s := { s with free := s.free + freed }
  if n = 0 then s else (s.bump d .abandoned n).raise (.dom d .groupAbandoned)

/-- Steps 2, 4, 6 and the end of the pending boundary: the banks swap, the epoch number rises, COMMIT_OUTd changes level, the
scheduler is IDLE (R5, R45, R47, R46). -/
def Domain.swapBanks (x : Domain) : Domain :=
  { x with
    openBank := []
    drainBank := x.openBank
    epoch := x.epoch + 1
    commitOut := !x.commitOut
    sched := .idle }

/-- The history record of a commit point of domain `d` (R46), from the state in which the groups have been abandoned and the
banks not yet swapped; `n` is the count of groups abandoned. -/
def State.commitRecord (s : State) (d : Dom) (b : Boundary) (n : Nat) : HistoryRecord where
  serial := s.serial + 1
  dom := d
  epoch := (s.dom d).epoch + 1
  causes := b.causes
  merged := b.merged
  final := b.final
  empty := (s.dom d).openBank.isEmpty
  sampleOverride := !(s.dom d).sampleN
  abandoned := n
  committed := (s.dom d).openBank.length
  waitTicks := min (s.time.tick - b.requestTick) 65535
  drain := if (s.dom d).openBank.isEmpty then .notNeeded else .pending
  lost := 0

/-- Step 5: the record takes index 0, the oldest is dropped when the ring is full, the serial counter rises (R134, R135). -/
def State.pushHistory (s : State) (r : HistoryRecord) : State :=
  { s with history := (r :: s.history).take Config.ringSize, serial := s.serial + 1 }

/-- Step 7: COMMIT_d and COMMITS, and at an override SAMPLE_OVERRIDE_d and OVERRIDES (R47, R72). -/
def State.noteCommit (s : State) (d : Dom) : State :=
  let s := (s.bump d .commits 1).raise (.dom d .commit)
  if (s.dom d).sampleN then s else (s.bump d .overrides 1).raise (.dom d .sampleOverride)

/-- The consumer's resolved read of domain `d`, if one is in MEMORY_WAIT, is fenced (R88). -/
def State.fenceRead (s : State) (d : Dom) : State :=
  { s with cpRead := s.cpRead.map fun r => if r.path = .resolved d then { r with fenced := true } else r }

/-- Step 8: a commit point with entries appends an element, with its fence flag; one without raises DRAINED_d at once
(R48, R49, R95). -/
def State.enqueue (s : State) (d : Dom) : State :=
  match (s.dom d).drainBank.length with
  | 0 => s.raise (.dom d .drained)
  | n + 1 =>
    { s with queue := s.queue ++
        [{ dom := d, epoch := (s.dom d).epoch, serial := s.serial, fence := s.cpReads d,
           phase := .queued, committed := n + 1, retired := 0 }] }

/-- Domain `d` goes to OFF: its epoch timer stops (R124). -/
def State.goOff (s : State) (d : Dom) : State :=
  s.updDom d fun x => { x with state := .off, timer := none }

/-- Step 9: after a final commit point domain `d` takes no further request, a held SPACE write takes reason FLUSH, and after an
EMPTY one domain `d` is OFF at once (R50, R124). -/
def State.finishFinal (s : State) (d : Dom) : State :=
  let s := s.updDom d fun x => { x with state := .flushing true }
  let s := s.heldToFlush d
  if (s.dom d).drainBank.isEmpty then s.goOff d else s

/-- The commit point of domain `d` with pending boundary `b`, in the order of Table 2.5 (R44 to R50). -/
def State.commit (s : State) (d : Dom) (b : Boundary) : State :=
  let n := (s.openGroups d).length
  let s := s.abandon d
  let r := s.commitRecord d b n
  let s := s.updDom d Domain.swapBanks
  let s := s.closeGroups d
  let s := s.pushHistory r
  let s := s.noteCommit d
  let s := s.fenceRead d
  let s := s.enqueue d
  if b.final then s.finishFinal d else s

/-! ### The drain engine (chapter 06) -/

/-- The record of an element: it carries the element's serial and domain, and its drain is PENDING. A serial comes round again
after 65,536 commits, and the record that carries it then is another's, EMPTY (R135, R136, R138). -/
def HistoryRecord.isOf (r : HistoryRecord) (e : Element) : Bool :=
  decide (r.serial = e.serial) && decide (r.dom = e.dom) && decide (r.drain = .pending)

/-- The record of element `e`, if the ring still holds it, is changed (R103, R137). -/
def State.updRecord (s : State) (e : Element) (f : HistoryRecord → HistoryRecord) : State :=
  { s with history := s.history.map fun r => if r.isOf e then f r else r }

/-- The drain engine begins the bank of the head element (R96). -/
def State.beginBank (s : State) (e : Element) (rest : List Element) : State :=
  ({ s with queue := { e with phase := .draining } :: rest, engine := .writing }).presentDrain
    (s.dom e.dom).drainBank

/-- The loss of an entry: LOST_ENTRIES, the record's lost count, MEM_ERROR_d (R101). -/
def State.noteLost (s : State) (e : Element) : State :=
  let s := s.bump e.dom .lostEntries 1
  let s := s.updRecord e fun r => { r with lost := r.lost + 1 }
  s.raise (.dom e.dom .memError)

/-- The entry in position 1 of the head element's bank retires, written (R99) or lost (R101), and the write of the next one is
requested. The drain end of an emptied bank is a step of its own. -/
def State.retire (s : State) (lost : Bool) : State :=
  match s.queue with
  | [] => s
  | e :: rest =>
    match (s.dom e.dom).drainBank with
    | [] => s
    | _ :: bank =>
      let s := { s with queue := { e with retired := e.retired + 1 } :: rest, free := s.free + 1 }
      let s := s.updDom e.dom fun x => { x with drainBank := bank }
      let s := if lost then s.noteLost e else s
      s.presentDrain bank

/-- The scheduler is told of the drain end: a boundary in DRAIN_WAIT moves to SETTLE (R37). -/
def Domain.drainEnded (x : Domain) : Domain :=
  match x.sched with
  | .drainWait b => x.enterSettle b
  | .idle => x
  | .settle _ _ _ => x

/-- The drain end of the head element's bank, in the order of R102. -/
def State.endDrain (s : State) (e : Element) (rest : List Element) : State :=
  let s := { s with queue := rest }
  let s := s.updRecord e fun r => { r with drain := .done }
  let s := s.raise (.dom e.dom .drained)
  let s := s.updDom e.dom Domain.drainEnded
  let s := if (s.dom e.dom).state = .flushing true then s.goOff e.dom else s
  { s with engine := .idle }

/-! ### The memory arbiter (R108 to R112) -/

/-- The request a requester presents. -/
def Arbiter.request (a : Arbiter) : Requester → Option Request
  | .cp => a.cpReq
  | .drain => a.drainReq
  | .wp => a.wpReq

/-- The wait count of a requester. -/
def Arbiter.wait (a : Arbiter) : Requester → Nat
  | .cp => a.cpWait
  | .drain => a.drainWait
  | .wp => a.wpWait

/-- The requesters in the order of R108. -/
def requesters : List Requester := [.cp, .drain, .wp]

/-- The requesters whose requests are presented, in the order of R108. -/
def Arbiter.presented (a : Arbiter) : List Requester :=
  requesters.filter fun r => (a.request r).isSome

/-- The choice of the arbiter: the first guarded requester, or else the first presented one (R108, R109). -/
def Arbiter.choose (a : Arbiter) : Option Requester :=
  match a.presented.find? fun r => decide (Config.guardCount ≤ a.wait r) with
  | some r => some r
  | none => a.presented.head?

/-- A requester's wait count after a grant to `winner` (R109). -/
def Arbiter.waitAfter (a : Arbiter) (winner r : Requester) : Nat :=
  if r = winner then 0 else if (a.request r).isSome then a.wait r + 1 else a.wait r

/-- The grant of request `q` of `winner` (R107 to R109): it is issued on MP with MEM_TIMEOUT started at `limit` (R110), or, in the
CLK period of MP_CANCEL, kept until that period is over (R111). -/
def Arbiter.grant (a : Arbiter) (winner : Requester) (q : Request) (limit : Nat) : Arbiter where
  cpReq := if winner = .cp then none else a.cpReq
  drainReq := if winner = .drain then none else a.drainReq
  wpReq := if winner = .wp then none else a.wpReq
  cpWait := a.waitAfter winner .cp
  drainWait := a.waitAfter winner .drain
  wpWait := a.waitAfter winner .wp
  mp := if a.cancel then none else some { who := winner, req := q, left := limit }
  granted := if a.cancel then some { who := winner, req := q } else none
  cancel := a.cancel

/-- MEMORY_GRANT is due: the port is free, no grant waits to be issued, and a request is presented (R107). While RESET_N is low
the arbiter grants nothing (R113). -/
def State.tryGrant (s : State) : Option State :=
  if s.resetN && s.arb.mp.isNone && s.arb.granted.isNone then
    match s.arb.choose with
    | none => none
    | some winner =>
      match s.arb.request winner with
      | none => none
      | some q => some { s with arb := s.arb.grant winner q s.memTimeout.toNat }
  else none

/-- The CLK period of MP_CANCEL is over, and an access granted in it is issued, with MEM_TIMEOUT started (R111, R172). -/
def Arbiter.endCancel (a : Arbiter) (limit : Nat) : Arbiter :=
  match a.granted with
  | some g => { a with cancel := false, granted := none, mp := some { who := g.who, req := g.req, left := limit } }
  | none => { a with cancel := false }

/-- The word a read record answers with: the covered lanes from the banks, the others from memory (R80, R84). -/
def ReadRecord.merge (r : ReadRecord) (mem : Word) : Word :=
  laneMerge mem r.bytes r.covered

/-- PASS_ERRORS counts a CP or WP access answered ERR (R112). -/
def State.countError (s : State) (err : Bool) : State :=
  if err then s.bumpDev .passErrors else s

/-- The engine is told of the answer to a fenced read and clears the fence flag of its domain's element (R97). -/
def State.clearFence (s : State) (r : ReadRecord) : State :=
  match r.fenced, r.path with
  | true, .resolved d => { s with queue := s.queue.map fun e => if e.dom = d then { e with fence := false } else e }
  | _, _ => s

/-- The data a read is answered with: 0 in every lane on ERR (R93). -/
def readData (err : Bool) (r : Option ReadRecord) (mem : Word) : Word :=
  if err then 0 else match r with
    | some r => r.merge mem
    | none => mem

/-- The consumer's read is answered (R84, R93), and the fence it set is cleared (R97). -/
def State.finishCpRead (s : State) (err : Bool) (mem : Word) : State :=
  let r := s.cpRead
  let s := ({ s with cpRead := none }).answerCp err (readData err r mem)
  match r with
  | some r => s.clearFence r
  | none => s

/-- The writer's read is answered (R84, R93). -/
def State.finishWpRead (s : State) (err : Bool) (mem : Word) : State :=
  ({ s with wpRead := none }).answerWp err (readData err s.wpRead mem)

/-- The answer of an MP access goes to its owner (Table 6.3); a write is answered with data 0 (R171). -/
def State.deliver (s : State) (o : Outstanding) (err : Bool) (mem : Word) : State :=
  match o.who with
  | .drain => s.retire err
  | .cp => (if o.req.write then s.answerCp err 0 else s.finishCpRead err mem).countError err
  | .wp => (if o.req.write then s.answerWp err 0 else s.finishWpRead err mem).countError err

/-- The access on MP ends. -/
def State.endAccess (s : State) : State :=
  { s with arb := { s.arb with mp := none } }

/-- The access outstanding on MP is withdrawn: MP_CANCEL for one CLK period, ERR and data 0 to its owner (R111). The grant that
the free port makes at that edge is an instant of the part's own. -/
def State.withdraw (s : State) : State :=
  match s.arb.mp with
  | none => s
  | some o => ({ s with arb := { s.arb with mp := none, cancel := true } }).deliver o true 0

/-! ### Reads (chapter 05) -/

/-- The lanes and bytes a bank has for a word: none where it has no entry. -/
def Bank.lanes (b : Bank) (a : Addr) : Lanes × Word :=
  match b.lookup a with
  | some e => (e.mask, e.data)
  | none => (0, 0)

/-- The lookup of a consumer read of domain `d`: the draining bank alone (R83). -/
def State.cpLookup (s : State) (d : Dom) (a : Addr) : ReadRecord :=
  let l := (s.dom d).drainBank.lanes a
  { addr := a, path := .resolved d, covered := l.1, bytes := laneMerge 0 l.2 l.1, fenced := false }

/-- The lookup of a writer read of domain `d`: for each lane the open bank, else the draining bank (R82). -/
def State.wpLookup (s : State) (d : Dom) (a : Addr) : ReadRecord :=
  let o := (s.dom d).openBank.lanes a
  let l := (s.dom d).drainBank.lanes a
  { addr := a, path := .resolved d, covered := l.1 ||| o.1
    bytes := laneMerge (laneMerge 0 l.2 l.1) o.2 o.1, fenced := false }

/-- The record of a pass-through read (R80). -/
def passThroughRead (a : Addr) : ReadRecord where
  addr := a
  path := .passThrough
  covered := 0
  bytes := 0
  fenced := false

/-- A pass-through read as the port captured it, with the levels of X_WDATA (R80, R172). -/
def passThroughRequest (a : Addr) (be : Lanes) (data : Word) : Request where
  write := false
  addr := a
  be := be
  data := data

/-- The memory read of a resolved read, with all enables set (R84, R172). The rules name the enables alone: that MP_WDATA carries 0
is DESIGN CHOICE (log 23). -/
def memoryRead (a : Addr) : Request where
  write := false
  addr := a
  be := 0xF
  data := 0

/-! ### The device states and reset (chapter 07) -/

/-- What the acceptance of a RESTART does to domain `d` besides its journal: the pending boundary is dropped, the hold limits
and the epoch timer stop (R42, R27). -/
def Domain.dropBoundary (x : Domain) : Domain :=
  { x with sched := .idle, timer := none }

/-- The acceptance of a RESTART (R126, Table 7.6). -/
def State.acceptRestart (s : State) : State :=
  let s := { s with device := .restarting }
  let s := (s.updDom .d0 Domain.dropBoundary).updDom .d1 Domain.dropBoundary
  let s := (s.freeOpenBank .d0).freeOpenBank .d1
  let s := s.heldToRestart
  (s.closeGroups .d0).closeGroups .d1

/-- A domain at the completion of a RESTART: OFF, timer stopped, epoch number 0 (R128 steps 1 and 2). -/
def Domain.restarted (x : Domain) : Domain :=
  { x with state := .off, timer := none, epoch := 0 }

/-- A held write with reason RESTART is released (R128 step 8). -/
def State.releaseRestart (s : State) : State :=
  match s.held with
  | some h => if h.reason = .restart then s.releaseHeld h else s
  | none => s

/-- The completion of a RESTART, in the order of R128. -/
def State.completeRestart (s : State) : State :=
  let s := (s.updDom .d0 Domain.restarted).updDom .d1 Domain.restarted
  let s := { s with history := [], serial := 0 }
  let s := s.clearAllCounters
  let s := s.clearEvents
  let s := s.raise .restartDone
  let s := { s with device := .running }
  s.releaseRestart

/-- The drain queue element of domain `d`. -/
def State.elementOf (s : State) (d : Dom) : Option Element :=
  s.queue.find? fun e => decide (e.dom = d)

/-- What the reset record takes from domain `d` (Table 7.7, R106). -/
def State.lostRecord (s : State) (d : Dom) : LostRecord :=
  let n := (s.dom d).openBank.length
  match s.elementOf d with
  | none => { openLost := n, status := .none, epoch := 0, written := 0, unwritten := 0 }
  | some e =>
    match e.phase with
    | .draining =>
      { openLost := n, status := .interrupted, epoch := e.epoch, written := e.retired,
        unwritten := e.committed - e.retired }
    | .queued => { openLost := n, status := .queued, epoch := e.epoch, written := 0, unwritten := e.committed }

/-- A domain as RESET_N leaves it: reset, but for its part of the reset record and the levels last taken of its input lines,
which are ignored until release (R173). -/
def Domain.afterReset (x : Domain) (r : LostRecord) : Domain :=
  { Domain.reset with sampleN := x.sampleN, epochIn := x.epochIn, lost := r }

/-- The assertion of RESET_N: the reset record is written first, then every block is reset, MP_CANCEL is held high
(R131, R173). The commands that wait are not the part's and stay. -/
def State.assertReset (s : State) : State :=
  { State.reset with
    resetN := false
    dom0 := s.dom0.afterReset (s.lostRecord .d0)
    dom1 := s.dom1.afterReset (s.lostRecord .d1)
    arb := { Arbiter.reset with cancel := true }
    recValid := true
    recHeldLost := s.held.isSome
    link := { Link.reset with selN := s.link.selN }
    pending := s.pending }

/-- The lines are taken at their present levels (R67, R149, R173). -/
def State.takeLines (s : State) (l : Lines) : State :=
  { s with
    dom0 := { s.dom0 with sampleN := l.sampleN0, epochIn := l.epochIn0 }
    dom1 := { s.dom1 with sampleN := l.sampleN1, epochIn := l.epochIn1 }
    link := { s.link with selN := l.slSelN } }

end Sys2Proof.Machine
end

