-- ==== Sys2Proof/Machine/Instants.lean ====
section
/-! DEFINITION. The part's own instants: when each is due, what it does, and `settle`, which takes all that are due.
The rules put these steps "at the first moment", "at that instant", "at once" (R17, R39, R96, R102, R107, R125, R128). The table
lists them as rows, and a queue may hold them; whatever the queue holds next, nothing later happens before they have been taken
(log 1), but for what may arrive together with them (`Hold`). -/

namespace Sys2Proof.Machine

/-- PLACE_HELD_WRITE is due: the held write has reason SPACE and a new entry can be had (R17). -/
def State.tryPlace (s : State) : Option State :=
  match s.held with
  | some h => if s.resetN && decide (h.reason = .space) && s.hasRoom h.dom then some (s.placeHeld h) else none
  | none => none

/-- DRAIN_END is due: the head element's bank is draining and its last entry has retired (R102). -/
def State.tryDrainEnd (s : State) : Option State :=
  match s.queue with
  | e :: rest =>
    if s.resetN && decide (e.phase = .draining) && (s.dom e.dom).drainBank.isEmpty then some (s.endDrain e rest)
    else none
  | [] => none

/-- COMMIT_POINT is due: the domain is in SETTLE and the commit condition holds (R39). -/
def State.tryCommit (s : State) (d : Dom) : Option State :=
  match (s.dom d).sched with
  | .settle b _ _ => if s.resetN && s.commitCondition d b then some (s.commit d b) else none
  | .idle => none
  | .drainWait _ => none

/-- HELD_WRITE_RELEASE is due: the held write has reason FLUSH and its domain is OFF (R125). -/
def State.tryRelease (s : State) : Option State :=
  match s.held with
  | some h =>
    if s.resetN && decide (h.reason = .flush) && decide ((s.dom h.dom).state = .off) then some (s.releaseHeld h)
    else none
  | none => none

/-- DRAIN_BANK_BEGIN is due: the engine is IDLE and the head element is QUEUED with its fence flag clear (R96). -/
def State.tryBegin (s : State) : Option State :=
  match s.queue with
  | e :: rest =>
    if s.resetN && decide (s.engine = .idle) && decide (e.phase = .queued) && !e.fence then some (s.beginBank e rest)
    else none
  | [] => none

/-- RESTART_COMPLETION is due: the drain queue is empty while the device is RESTARTING (R128). -/
def State.tryRestart (s : State) : Option State :=
  if s.resetN && decide (s.device = .restarting) && s.queue.isEmpty then some s.completeRestart else none

/-- What is held back while a command arrives that may come together with it: the commit point of a domain, behind a boundary
request of that domain (R36, R51), and the grant, behind a request for memory (R107, R108). A sender that wants the instant
first puts its row, or a CLK period, before the command (log 1, log 3). -/
structure Hold where
  commit : Option Dom := none
  grant  : Bool := false
  deriving DecidableEq, Repr

/-- COMMIT_POINT is due and not held back. -/
def Hold.tryCommit (h : Hold) (s : State) (d : Dom) : Option State :=
  if h.commit = some d then none else s.tryCommit d

/-- MEMORY_GRANT is due and not held back. -/
def Hold.tryGrant (h : Hold) (s : State) : Option State :=
  if h.grant then none else s.tryGrant

/-- The first of the part's own instants that is due. A placing comes first, since the room it waits for was made before the
other instants became due (R17, "at the first moment"; log 14); the completion of a RESTART comes after the drain end, "after all
of that drain end's effects" (R128); a grant comes last, among all the requests presented at the instant (R108). -/
def State.advance (h : Hold) (s : State) : Option State :=
  s.tryPlace.or <| s.tryDrainEnd.or <| (h.tryCommit s .d0).or <| (h.tryCommit s .d1).or <|
    s.tryRelease.or <| s.tryBegin.or <| s.tryRestart.or (h.tryGrant s)

/-- How much an element of the drain queue still has before it: begin, the grant of its write, and drain end. -/
def Element.cost (e : Element) : Nat :=
  match e.phase with
  | .queued => 3
  | .draining => 1

/-- How much a scheduler still has before it: a commit point and the drain it may start. -/
def Sched.cost : Sched → Nat
  | .idle => 0
  | .drainWait _ => 4
  | .settle _ _ _ => 4

/-- A held write has its end before it, and a grant. -/
def heldCost : Option HeldWrite → Nat
  | none => 0
  | some _ => 2

/-- A RESTARTING device has the completion before it. -/
def DeviceState.cost : DeviceState → Nat
  | .running => 0
  | .restarting => 1

/-- A request presented has its grant before it. -/
def requestCost : Option Request → Nat
  | none => 0
  | some _ => 1

/-- The requests presented have their grants before them. -/
def Arbiter.cost (a : Arbiter) : Nat :=
  requestCost a.cpReq + requestCost a.drainReq + requestCost a.wpReq

/-- A bound on the instants that can follow one another without anything from outside; each of them lowers it. -/
def State.cost (s : State) : Nat :=
  heldCost s.held + (s.queue.map Element.cost).sum + s.dom0.sched.cost + s.dom1.sched.cost + s.device.cost + s.arb.cost

/-- Up to `n` of the instants that are due and not held back, one after another. -/
def settleN (h : Hold) : Nat → State → State
  | 0, s => s
  | n + 1, s =>
    match s.advance h with
    | none => s
    | some s' => settleN h n s'

/-- All the instants that are due, but for those held back, one after another. -/
def State.settleHolding (h : Hold) (s : State) : State := settleN h s.cost s

/-- All the instants that are due, one after another. -/
def State.settle (s : State) : State := s.settleHolding {}

/-- The pending boundary of a domain has a request from the same source as `c`: the timer, the line, the writer port, or the
setup link, which brings LINK and STOP. -/
def Causes.hasSource (cs : Causes) : Cause → Bool
  | .timer => cs.timer
  | .line => cs.line
  | .fill => cs.fill
  | .link => cs.link || cs.stop
  | .stop => cs.link || cs.stop

/-- What a boundary request of domain `d` holds back: the commit point that is due, where the pending boundary has no request from
the same source. Two requests from one source never arrive together (log 1). -/
def State.holdFor (s : State) (d : Dom) (c : Cause) : Hold :=
  match (s.dom d).sched with
  | .idle => {}
  | .drainWait b => if b.causes.hasSource c then {} else { commit := some d }
  | .settle b _ _ => if b.causes.hasSource c then {} else { commit := some d }

/-- The state in which a boundary request of domain `d` finds the part (R36, R51). -/
def State.settleForRequest (s : State) (d : Dom) (c : Cause) : State := s.settleHolding (s.holdFor d c)

/-- The state in which an access of an upstream port finds the part: presented in one CLK period with the requests that wait, it is
weighed together with them (R107, R108). -/
def State.settleForAccess (s : State) : State := s.settleHolding { grant := true }

end Sys2Proof.Machine
end

