-- ==== Sys2Proof/Machine/Boundary.lean ====
section
/-! DEFINITION. The part's own instants as commands, but for the grant, which stands with the memory port. Each takes its own
instant if it is due and does nothing otherwise: an instant whose conditions do not hold does not occur (log 2). -/

namespace Sys2Proof.Machine

/-- COMMIT_POINT (R44, R39). -/
def execCommitPoint (d : Dom) (s : State) : Host.Outcome State Fault Refusal :=
  .next ((s.tryCommit d).getD s)

/-- PLACE_HELD_WRITE (R17). -/
def execPlaceHeldWrite (s : State) : Host.Outcome State Fault Refusal :=
  .next (s.tryPlace.getD s)

/-- HELD_WRITE_RELEASE (R125). -/
def execHeldWriteRelease (s : State) : Host.Outcome State Fault Refusal :=
  .next (s.tryRelease.getD s)

/-- DRAIN_BANK_BEGIN (R96). -/
def execDrainBankBegin (s : State) : Host.Outcome State Fault Refusal :=
  .next (s.tryBegin.getD s)

/-- DRAIN_END (R102). -/
def execDrainEnd (s : State) : Host.Outcome State Fault Refusal :=
  .next (s.tryDrainEnd.getD s)

/-- RESTART_COMPLETION (R128). -/
def execRestartCompletion (s : State) : Host.Outcome State Fault Refusal :=
  .next (s.tryRestart.getD s)

end Sys2Proof.Machine
end

