-- ==== Sys2Proof/Machine/Frame.lean ====
section
/-! DEFINITION. The frames of the setup link: bytes, the CRC-8 check byte, the command codes. -/

namespace Sys2Proof.Machine

/-- Byte `i` of a frame, byte 0 first (R149). -/
def frameByte (f : Frame) (i : Nat) : Byte :=
  f.extractLsb' (8 * (7 - i)) 8

/-- The data bytes 2..5 of a frame (Table 10.6). -/
def frameData (f : Frame) : Word :=
  f.extractLsb' 16 32

/-- One bit into the CRC-8 with polynomial x^8 + x^2 + x + 1 (R152). -/
def crcBit (crc : Byte) (bit : Bool) : Byte :=
  if crc.msb ^^ bit then (crc <<< 1) ^^^ 0x07 else crc <<< 1

/-- The CRC-8 over the 56 bits of bytes 0..6, first sent first (R152). -/
def crc8 (body : BitVec 56) : Byte :=
  (List.range 56).foldl (fun c i => crcBit c (body.getMsbD i)) 0

/-- A frame with its check byte. -/
def withCheck (body : BitVec 56) : Frame :=
  body ++ crc8 body

/-- The frame of a command code, an argument, data and a tag (Table 10.6). -/
def commandFrame (code arg : Byte) (data : Word) (tag : Byte) : Frame :=
  withCheck (code ++ arg ++ data ++ tag)

/-- Byte 7 of the frame is the CRC-8 of its bytes 0..6 (R152). -/
def frameSound (f : Frame) : Bool :=
  decide (frameByte f 7 = crc8 (f.extractLsb' 8 56))

/-- The commands of Table 10.4. -/
inductive Command where
  | nop
  | readParam
  | readState
  | readEvent
  | readCounter
  | readHistory
  | readResetRecord
  | writeParam
  | ackEvent
  | clearCounters
  | start
  | stop
  | close
  | discard
  | restart
  deriving DecidableEq, Repr

/-- The command codes (Table 10.4). -/
def Command.code : Command → Byte
  | nop => 0x00
  | readParam => 0x11
  | readState => 0x12
  | readEvent => 0x13
  | readCounter => 0x14
  | readHistory => 0x15
  | readResetRecord => 0x16
  | writeParam => 0x21
  | ackEvent => 0x22
  | clearCounters => 0x23
  | start => 0x31
  | stop => 0x32
  | close => 0x33
  | discard => 0x34
  | restart => 0x3A

/-- Every command of Table 10.4. -/
def Command.all : List Command :=
  [nop, readParam, readState, readEvent, readCounter, readHistory, readResetRecord, writeParam, ackEvent, clearCounters,
    start, stop, close, discard, restart]

/-- The command a byte names, if it names one. -/
def Command.ofCode? (b : Byte) : Option Command :=
  Command.all.find? fun c => decide (c.code = b)

/-- NOP and the READ_* commands are executed in both device states (R154). -/
def Command.always : Command → Bool
  | nop => true
  | readParam => true
  | readState => true
  | readEvent => true
  | readCounter => true
  | readHistory => true
  | readResetRecord => true
  | writeParam => false
  | ackEvent => false
  | clearCounters => false
  | start => false
  | stop => false
  | close => false
  | discard => false
  | restart => false

end Sys2Proof.Machine
end

