-- ==== Sys2Proof/Machine/Params.lean ====
section
/-! DEFINITION. The parameter store (chapter 11): numbers, values, range checks, locks, writes. -/

namespace Sys2Proof.Machine

/-- The eight settings of a domain, by the low digit of their number. -/
inductive Setting where
  | quota
  | policy
  | writeHold
  | period
  | timerRun
  | lineEn
  | groupHold
  | sampleHold
  deriving DecidableEq, Repr

/-- The 54 parameters (Table 11.1). -/
inductive Param where
  | partId
  | revision
  | poolSize
  | tickDiv
  | memTimeout
  | eventEnable
  | setting (d : Dom) (p : Setting)
  | winBase (w : Fin 8)
  | winCtrl (w : Fin 8)
  | grp (g : Fin 16)
  deriving DecidableEq, Repr

/-- The setting at offset `i` of a domain's eight. -/
def Setting.ofIdx (i : Fin 8) : Setting :=
  match i with
  | 0 => .quota
  | 1 => .policy
  | 2 => .writeHold
  | 3 => .period
  | 4 => .timerRun
  | 5 => .lineEn
  | 6 => .groupHold
  | 7 => .sampleHold

/-- The offset of a setting. -/
def Setting.idx : Setting → Fin 8
  | quota => 0
  | policy => 1
  | writeHold => 2
  | period => 3
  | timerRun => 4
  | lineEn => 5
  | groupHold => 6
  | sampleHold => 7

/-- The low three bits of a number. -/
def low3 (n : Byte) : Fin 8 := Fin.ofNat 8 n.toNat

/-- The low four bits of a number. -/
def low4 (n : Byte) : Fin 16 := Fin.ofNat 16 n.toNat

/-- The window of a number 0x40..0x4F (R114). -/
def windowOfNum (n : Byte) : Fin 8 := Fin.ofNat 8 (n.toNat / 2)

/-- The parameter a number names; every other number is unassigned (R163). -/
def Param.ofNum? (n : Byte) : Option Param :=
  if n = 0x00 then some .partId
  else if n = 0x01 then some .revision
  else if n = 0x02 then some .poolSize
  else if n = 0x08 then some .tickDiv
  else if n = 0x09 then some .memTimeout
  else if n = 0x0A then some .eventEnable
  else if 0x10 ≤ n ∧ n ≤ 0x17 then some (.setting .d0 (.ofIdx (low3 n)))
  else if 0x20 ≤ n ∧ n ≤ 0x27 then some (.setting .d1 (.ofIdx (low3 n)))
  else if 0x40 ≤ n ∧ n ≤ 0x4F then
    if n.toNat % 2 = 0 then some (.winBase (windowOfNum n)) else some (.winCtrl (windowOfNum n))
  else if 0x60 ≤ n ∧ n ≤ 0x6F then some (.grp (low4 n))
  else none

/-- The number of a parameter (Table 11.1). -/
def Param.num : Param → Byte
  | .partId => 0x00
  | .revision => 0x01
  | .poolSize => 0x02
  | .tickDiv => 0x08
  | .memTimeout => 0x09
  | .eventEnable => 0x0A
  | .setting .d0 p => BitVec.ofNat 8 (0x10 + p.idx)
  | .setting .d1 p => BitVec.ofNat 8 (0x20 + p.idx)
  | .winBase w => BitVec.ofNat 8 (0x40 + 2 * w)
  | .winCtrl w => BitVec.ofNat 8 (0x41 + 2 * w)
  | .grp g => BitVec.ofNat 8 (0x60 + g)

/-! ### Values as READ_PARAM returns them (R155, Table 10.9) -/

/-- FULL_POLICY_d by value (Table 11.1). -/
def FullPolicy.value : FullPolicy → Word
  | .wait => 0
  | .early => 1
  | .refuse => 2

/-- The policy a value in range names. -/
def FullPolicy.ofValue (v : Word) : FullPolicy :=
  if v = 1 then .early else if v = 2 then .refuse else .wait

/-- A flag as a parameter value. -/
def flagValue (b : Bool) : Word := if b then 1 else 0

/-- WIN_CTRL packed: enable in bit 0, domain in bit 1, k in bits 8..4. -/
def Window.pack (w : Window) : Word :=
  0#23 ++ w.k ++ 0#2 ++ BitVec.ofBool (domBit w.dom) ++ BitVec.ofBool w.enable

/-- GRP packed: enable in bit 0, window in bits 6..4, offset in bits 23..8, length in bits 28..24. -/
def Group.pack (g : Group) : Word :=
  0#3 ++ g.length ++ g.offset ++ 0#1 ++ BitVec.ofNat 3 g.window ++ 0#3 ++ BitVec.ofBool g.enable

/-- The domain field of a WIN_CTRL value. -/
def ctrlDom (v : Word) : Dom := domOfBit (v.getLsbD 1)

/-- The size exponent of a WIN_CTRL value. -/
def ctrlSize (v : Word) : BitVec 5 := v.extractLsb' 4 5

/-- The window field of a GRP value. -/
def grpWindow (v : Word) : Fin 8 := Fin.ofNat 8 (v.extractLsb' 4 3).toNat

/-- The length field of a GRP value. -/
def grpLength (v : Word) : BitVec 5 := v.extractLsb' 24 5

/-- A window takes the fields of a WIN_CTRL value; its base stays. -/
def Window.setCtrl (w : Window) (v : Word) : Window :=
  { w with enable := v.getLsbD 0, dom := ctrlDom v, k := ctrlSize v }

/-- The group of a GRP value. -/
def Group.unpack (v : Word) : Group where
  enable := v.getLsbD 0
  window := grpWindow v
  offset := v.extractLsb' 8 16
  length := grpLength v

/-- The value of a domain's setting. -/
def DomParams.value (p : DomParams) : Setting → Word
  | .quota => p.quota.setWidth 32
  | .policy => p.policy.value
  | .writeHold => p.writeHold.setWidth 32
  | .period => p.period.setWidth 32
  | .timerRun => flagValue p.timerRun
  | .lineEn => flagValue p.lineEn
  | .groupHold => p.groupHold.setWidth 32
  | .sampleHold => p.sampleHold.setWidth 32

/-- The value the store holds for a parameter (R155, R163, R164). -/
def State.param (s : State) : Param → Word
  | .partId => Config.partId
  | .revision => Config.revision
  | .poolSize => Config.poolSizeWord
  | .tickDiv => s.tickDiv.setWidth 32
  | .memTimeout => s.memTimeout.setWidth 32
  | .eventEnable => s.eventEnable.setWidth 32
  | .setting d p => (s.dom d).params.value p
  | .winBase w => s.windows[w].base.setWidth 32
  | .winCtrl w => s.windows[w].pack
  | .grp g => s.groups[g].pack

/-! ### The checks of a write (R165, R166) -/

/-- The whole 32-bit value lies in a range. -/
def inSpan (lo hi : Nat) (v : Word) : Bool :=
  decide (lo ≤ v.toNat) && decide (v.toNat ≤ hi)

/-- The range of a domain's setting (Table 11.1). -/
def Setting.inRange : Setting → Word → Bool
  | .quota => inSpan 16 512
  | .policy => inSpan 0 2
  | .writeHold => inSpan 1 255
  | .period => inSpan 10 65535
  | .timerRun => inSpan 0 1
  | .lineEn => inSpan 0 1
  | .groupHold => inSpan 1 255
  | .sampleHold => inSpan 1 255

/-- A value is in range for a parameter (R165); the identity parameters are not writable (R164). -/
def Param.inRange : Param → Word → Bool
  | .partId, _ => false
  | .revision, _ => false
  | .poolSize, _ => false
  | .tickDiv, v => inSpan 10 1000 v
  | .memTimeout, v => inSpan 1 255 v
  | .eventEnable, v => decide (v.extractLsb' 18 14 = 0)
  | .setting _ p, v => p.inRange v
  | .winBase _, v => decide (v.extractLsb' 24 8 = 0)
  | .winCtrl _, v => decide (v &&& ~~~0x1F3 = 0) && inSpan 2 16 ((ctrlSize v).setWidth 32)
  | .grp _, v => decide (v &&& ~~~0x1FFFFF71 = 0) && inSpan 2 16 ((grpLength v).setWidth 32)

/-- The domains that govern a parameter of class LOCKED, for a value to be written (R166); none for another class. -/
def State.governors (s : State) (p : Param) (v : Word) : List Dom :=
  match p with
  | .setting d .quota => [d]
  | .setting d .policy => [d]
  | .winBase w => [s.windows[w].dom]
  | .winCtrl w => [s.windows[w].dom, ctrlDom v]
  | .grp g => [s.groupDom g, s.windows[grpWindow v].dom]
  | .setting _ _ => []
  | .partId => []
  | .revision => []
  | .poolSize => []
  | .tickDiv => []
  | .memTimeout => []
  | .eventEnable => []

/-- A write is LOCKED when any governing domain is in use (R166). -/
def State.locks (s : State) (p : Param) (v : Word) : Bool :=
  (s.governors p v).any s.inUse

/-! ### The write itself (R156, R167) -/

/-- TIMER_RUN_d is written: 0 stops the timer; 1, where it was 0 and the domain is in use, starts it with PERIOD_d; 1 where it
was 1 does not restart it (R27). -/
def Domain.writeTimerRun (x : Domain) (run : Bool) : Domain :=
  { x with
    params := { x.params with timerRun := run }
    timer :=
      if !run then none
      else if !x.params.timerRun && decide (x.state ≠ .off) then some x.params.period.toNat
      else x.timer }

/-- A setting of a domain is written. -/
def Domain.writeSetting (x : Domain) (p : Setting) (v : Word) : Domain :=
  match p with
  | .quota => { x with params := { x.params with quota := v.setWidth 10 } }
  | .policy => { x with params := { x.params with policy := .ofValue v } }
  | .writeHold => { x with params := { x.params with writeHold := v.setWidth 8 } }
  | .period => { x with params := { x.params with period := v.setWidth 16 } }
  | .timerRun => x.writeTimerRun (v.getLsbD 0)
  | .lineEn => { x with params := { x.params with lineEn := v.getLsbD 0 } }
  | .groupHold => { x with params := { x.params with groupHold := v.setWidth 8 } }
  | .sampleHold => { x with params := { x.params with sampleHold := v.setWidth 8 } }

/-- A value that has passed the checks is stored; the identity parameters keep theirs (R164). -/
def State.store (s : State) (p : Param) (v : Word) : State :=
  match p with
  | .partId => s
  | .revision => s
  | .poolSize => s
  | .tickDiv => { s with tickDiv := v.setWidth 10 }
  | .memTimeout => { s with memTimeout := v.setWidth 8 }
  | .eventEnable => { s with eventEnable := v.setWidth 18 }
  | .setting d q => s.updDom d fun x => x.writeSetting q v
  | .winBase w => { s with windows := s.windows.set w { s.windows[w] with base := v.setWidth 24 } }
  | .winCtrl w => { s with windows := s.windows.set w (s.windows[w].setCtrl v) }
  | .grp g => { s with groups := s.groups.set g (Group.unpack v) }

/-- The result of a write of a parameter: the number and the range are judged before the lock (R156). -/
def State.writeResult (s : State) (p : Param) (v : Word) : Result :=
  if !p.inRange v then .badArgument else if s.locks p v then .locked else .ok

/-- WRITE_PARAM of an assigned parameter (R156). -/
def State.writeParam (s : State) (p : Param) (v : Word) : State :=
  match s.writeResult p v with
  | .ok => s.store p v
  | _ => s

end Sys2Proof.Machine
end

