-- ==== Sys2Proof/Machine/LinkOps.lean ====
section
/-! DEFINITION. The setup link: the response pipeline, the order of the tests, the words that reading commands return. -/

namespace Sys2Proof.Machine

/-! ### Responses (R153, Table 10.6) -/

/-- Result codes (Table 10.6). -/
def Result.code : Result → BitVec 4
  | ok => 0
  | none => 1
  | checkFail => 2
  | unknown => 3
  | badArgument => 4
  | locked => 5
  | state => 6
  | stale => 7
  | invalidTable => 8
  | restarting => 9

/-- The frame that a response is shifted out as, with its check byte (Table 10.6, R152). -/
def Response.frame (r : Response) : Frame :=
  withCheck (r.flags ++ r.result.code ++ r.command ++ r.data ++ r.tag)

/-- What a command answers: a result, the flags and the data. -/
structure Reply where
  result : Result
  flags  : BitVec 4 := 0
  data   : Word := 0
  deriving DecidableEq, Repr

/-- A reply that carries nothing but its result (R154). -/
def Reply.bare (r : Result) : Reply := { result := r }

/-- An OK reply with data. -/
def Reply.okData (w : Word) : Reply := { result := .ok, data := w }

/-- The bits of a frame, first sent first (R149). -/
def frameBits (f : Frame) : List Bool := (List.range 64).map fun i => f.getMsbD i

/-- SL_SEL_N falls: the interface is RECEIVING, and SL_DO presents the first bit of the response `out` (R149). -/
def Link.selectFall (k : Link) (out : Frame) : Link where
  state := .receiving
  selN := false
  bitCount := 0
  kept := []
  presented := []
  slDo := some (out.getMsbD 0)
  response := k.response

/-- A rising edge of SL_CLK, which samples the bit `di` while SL_DO presents its level, and the falling edge that follows it, at which
SL_DO presents the next bit, low after the 64th (R149). SL_CLK edges while DESELECTED are ignored. -/
def Link.clock (out : Frame) (k : Link) (di : Bool) : Link :=
  match k.state with
  | .deselected => k
  | .receiving =>
    { state := .receiving
      selN := k.selN
      bitCount := k.bitCount + 1
      kept := if k.bitCount < 64 then k.kept ++ [di] else k.kept
      presented := k.presented ++ [out.getMsbD k.bitCount]
      slDo := some (out.getMsbD (k.bitCount + 1))
      response := k.response }

/-- SL_SEL_N rises: the interface is DESELECTED and does not drive SL_DO (R150, Table 10.1). -/
def Link.selectRise (k : Link) : Link :=
  { k with state := .deselected, selN := true, slDo := none }

/-- The bits of one frame pass between a fall and a rise of SL_SEL_N, while the response buffer is shifted out (R149, R150). -/
def Link.receive (k : Link) (bits : List Bool) : Link :=
  (bits.foldl (Link.clock k.response.frame) (k.selectFall k.response.frame)).selectRise

/-- A complete frame is received (R150). -/
def State.shiftFrame (s : State) (f : Frame) : State :=
  { s with link := s.link.receive (frameBits f) }

/-- A frame reaches its select rise, and `judge` is what the part makes of it. While RESET_N is low the link ignores it (R160). With
SL_SEL_N low since the release of RESET_N there was no fall: the interface is DESELECTED, and the rise judges no frame (R149,
log 8). -/
def State.takeFrame (s : State) (judge : State → State) : State :=
  if !s.resetN then s
  else if s.link.selN then judge s
  else { s with link := s.link.selectRise }

/-- The response buffer takes the response of a command (R153). -/
def State.respond (s : State) (code tag : Byte) (r : Reply) : State :=
  { s with link :=
      { s.link with response := { result := r.result, flags := r.flags, command := code, data := r.data, tag := tag } } }

/-- The tests of R154 that come before a command's own: RESTART while RESTARTING is answered STATE, and any other command but NOP
and the READ_* commands RESTARTING. A WRITE_PARAM just before the completion of a RESTART that would move its governing domain
to OFF is answered RESTARTING too (R154 test 3, R159, R163); R166 says LOCKED there, and that the model follows the other three is
DESIGN CHOICE (log 24). -/
def State.gate (s : State) (c : Command) : Option Result :=
  if s.device = .running ∨ c.always then none
  else if c = .restart then some .state
  else some .restarting

/-- A sound frame with command `c` reaches its select rise at a state with no instant due but those held back for it: the response
in waiting is shifted out, the tests of R154 are made, and the new response replaces it. `body` is the command's own part, the
test of its arguments included. -/
def State.linkCommand (s : State) (c : Command) (arg : Byte) (data : Word) (tag : Byte) (body : State → State × Reply) : State :=
  s.takeFrame fun s =>
    let s := s.shiftFrame (commandFrame c.code arg data tag)
    match s.gate c with
    | some r => s.respond c.code tag (.bare r)
    | none => (body s).1.respond c.code tag (body s).2

/-- A command that only reads: its reply is taken from the state, which does not change (section 10.4). -/
def reading (reply : State → Reply) (s : State) : State × Reply :=
  (s, reply s)

/-! ### Arguments (Table 10.3) -/

/-- Bits 3..0 of an argument byte. -/
def argLow (arg : Byte) : Nat := (arg.extractLsb' 0 4).toNat

/-- Bits 7..4 of an argument byte. -/
def argHigh (arg : Byte) : Nat := (arg.extractLsb' 4 4).toNat

/-- The domain an argument byte names (START, STOP, CLOSE, DISCARD). -/
def argDom (arg : Byte) : Option Dom := domOfNat? arg.toNat

/-- The state in which a frame that requests a boundary of the domain its argument names finds the part (R36, R51). -/
def State.settleForFrame (s : State) (arg : Byte) (c : Cause) : State :=
  match argDom arg with
  | some d => s.settleForRequest d c
  | none => s.settle

/-- The event an argument byte names (R144). -/
def argEvent (arg : Byte) : Option (Fin 18) :=
  if h : arg.toNat < 18 then some ⟨arg.toNat, h⟩ else none

/-! ### State words (Table 10.7) -/

/-- The set of causes, TIMER in bit 0 (Table 10.7). -/
def Causes.bits (c : Causes) : BitVec 5 :=
  BitVec.ofBool c.stop ++ BitVec.ofBool c.link ++ BitVec.ofBool c.fill ++ BitVec.ofBool c.line ++ BitVec.ofBool c.timer

/-- Word 0 of a domain (R7, R76). -/
def Domain.word0 (x : Domain) : Word :=
  0#10 ++ BitVec.ofBool x.commitOut ++ BitVec.ofBool x.sampleN ++ BitVec.ofNat 10 x.drainBank.length ++
    BitVec.ofNat 10 x.openBank.length

/-- The domain state field (Table 10.7). -/
def DomState.bits : DomState → BitVec 2
  | off => 0
  | active => 1
  | flushing _ => 2

/-- The scheduler state field (Table 10.7). -/
def Sched.bits : Sched → BitVec 2
  | idle => 0
  | drainWait _ => 1
  | settle _ _ _ => 2

/-- The pending boundary record, if there is one. -/
def Sched.record : Sched → Option Boundary
  | idle => none
  | drainWait b => some b
  | settle b _ _ => some b

/-- Bits 15..4 of word 1: the pending boundary's fields, 0 while the scheduler is IDLE (R43). -/
def boundaryBits : Option Boundary → BitVec 12
  | none => 0
  | some b =>
    BitVec.ofBool b.sampleExpired ++ BitVec.ofBool b.groupExpired ++ BitVec.ofBool b.final ++
      BitVec.ofNat 4 b.merged ++ b.causes.bits

/-- Word 1 of a domain (R43). -/
def Domain.word1 (x : Domain) : Word :=
  x.epoch ++ boundaryBits x.sched.record ++ x.sched.bits ++ x.state.bits

/-- The reason field of the held write (Table 10.7). -/
def HeldReason.bits : HeldReason → BitVec 2
  | space => 0
  | flush => 1
  | restart => 2

/-- Bits 13..10 of the device word: the held write, 0 where there is none (R161). -/
def heldBits : Option HeldWrite → BitVec 4
  | none => 0
  | some h => h.reason.bits ++ BitVec.ofBool (domBit h.dom) ++ 1#1

/-- The domain, fence and phase fields of a drain queue element, 0 where there is none (R161). -/
def elementBits : Option Element → BitVec 1 × BitVec 1 × BitVec 1
  | none => (0, 0, 0)
  | some e => (BitVec.ofBool (domBit e.dom), BitVec.ofBool e.fence, BitVec.ofBool (decide (e.phase = .draining)))

/-- Word 0 of the device (R7, R104, R119). -/
def State.deviceWord0 (s : State) : Word :=
  let a := elementBits s.queue[0]?
  let b := elementBits s.queue[1]?
  0#8 ++ BitVec.ofBool (decide (s.engine = .writing)) ++ b.2.2 ++ b.2.1 ++ a.2.2 ++ a.2.1 ++ b.1 ++ a.1 ++
    BitVec.ofNat 2 s.queue.length ++ BitVec.ofBool (decide (s.device = .restarting)) ++ heldBits s.held ++
    BitVec.ofNat 10 s.free

/-- The state field of a group (Table 10.7). -/
def GroupState.bits : GroupState → Nat
  | closed => 0
  | opened => 1
  | complete => 2

/-- Word 1 of the device: group g in bits 2g+1..2g (R65). -/
def State.deviceWord1 (s : State) : Word :=
  (List.finRange 16).foldl (fun w g => w ||| (BitVec.ofNat 32 (s.groupState g).bits <<< (2 * g.val))) 0

/-- READ_STATE (R155). -/
def State.stateReply (s : State) (arg : Byte) : Reply :=
  match argLow arg, argHigh arg with
  | 0, 0 => .okData s.dom0.word0
  | 0, 1 => .okData s.dom0.word1
  | 1, 0 => .okData s.dom1.word0
  | 1, 1 => .okData s.dom1.word1
  | 2, 0 => .okData s.deviceWord0
  | 2, 1 => .okData s.deviceWord1
  | _, _ => .bare .badArgument

/-! ### History and reset record words (Table 10.8) -/

/-- The drain state field (Table 10.8). -/
def DrainState.bits : DrainState → BitVec 2
  | pending => 1
  | done => 2
  | notNeeded => 3

/-- Word `w` of a history record (R139, Table 10.8). -/
def HistoryRecord.word (r : HistoryRecord) (w : Fin 4) : Word :=
  match w with
  | 0 => r.serial ++ r.epoch
  | 1 =>
    r.serial.setWidth 8 ++ 0#7 ++ BitVec.ofNat 5 r.abandoned ++ BitVec.ofBool r.sampleOverride ++
      BitVec.ofBool r.empty ++ BitVec.ofBool r.final ++ BitVec.ofNat 4 r.merged ++ r.causes.bits
  | 2 => r.serial.setWidth 8 ++ 0#2 ++ r.drain.bits ++ BitVec.ofNat 10 r.lost ++ BitVec.ofNat 10 r.committed
  | 3 => r.serial.setWidth 8 ++ 0#8 ++ BitVec.ofNat 16 r.waitTicks

/-- The response flags of READ_HISTORY: valid in bit 3 and the domain in bit 2 of the four (Table 10.6). -/
def HistoryRecord.flags (r : HistoryRecord) : BitVec 4 :=
  1#1 ++ BitVec.ofBool (domBit r.dom) ++ 0#2

/-- READ_HISTORY (R139, R155): an empty slot reads 0 in every field, the flags included. -/
def State.historyReply (s : State) (arg : Byte) : Reply :=
  if h : argHigh arg < 4 then
    match s.history[argLow arg]? with
    | some r => { result := .ok, flags := r.flags, data := r.word ⟨argHigh arg, h⟩ }
    | none => .bare .ok
  else .bare .badArgument

/-- DRAIN_STATUS (Table 10.8). -/
def DrainStatus.bits : DrainStatus → BitVec 2
  | none => 0
  | interrupted => 1
  | queued => 2

/-- Word 0 of a domain's part of the reset record. -/
def LostRecord.word0 (r : LostRecord) : Word :=
  0#4 ++ BitVec.ofNat 10 r.openLost ++ r.status.bits ++ r.epoch

/-- Word 1 of a domain's part of the reset record. -/
def LostRecord.word1 (r : LostRecord) : Word :=
  0#12 ++ BitVec.ofNat 10 r.unwritten ++ BitVec.ofNat 10 r.written

/-- The device's part of the reset record. -/
def State.recordWord (s : State) : Word :=
  0#30 ++ BitVec.ofBool s.recHeldLost ++ BitVec.ofBool s.recValid

/-- READ_RESET_RECORD (R132, R155). -/
def State.resetRecordReply (s : State) (arg : Byte) : Reply :=
  match argLow arg, argHigh arg with
  | 0, 0 => .okData s.dom0.lost.word0
  | 0, 1 => .okData s.dom0.lost.word1
  | 1, 0 => .okData s.dom1.lost.word0
  | 1, 1 => .okData s.dom1.lost.word1
  | 2, 0 => .okData s.recordWord
  | _, _ => .bare .badArgument

/-! ### Parameters, events, counters -/

/-- READ_PARAM (R155, R163). -/
def State.paramReply (s : State) (n : Byte) : Reply :=
  match Param.ofNum? n with
  | some p => .okData (s.param p)
  | none => .bare .badArgument

/-- WRITE_PARAM: the reply carries the value the parameter holds after the command (R156). -/
def writeParamBody (n : Byte) (v : Word) (s : State) : State × Reply :=
  match Param.ofNum? n with
  | some p => (s.writeParam p v, { result := s.writeResult p v, data := (s.writeParam p v).param p })
  | none => (s, .bare .badArgument)

/-- The record of an event as READ_EVENT returns it (Table 10.9). -/
def State.eventWord (s : State) (i : Fin 18) : Word :=
  0#26 ++ BitVec.ofBool (s.eventEnable.getLsbD i) ++ BitVec.ofBool s.events[i].pending ++ s.events[i].count

/-- READ_EVENT (R144). -/
def State.eventReply (s : State) (arg : Byte) : Reply :=
  match argEvent arg with
  | some i => .okData (s.eventWord i)
  | none => .bare .badArgument

/-- The pending flag of an event is cleared (R145). -/
def State.clearPending (s : State) (i : Fin 18) : State :=
  { s with events := s.events.set i { s.events[i] with pending := false } }

/-- ACK_EVENT (R145, R157): the count is bits 7..0 of the data. -/
def ackEventBody (arg : Byte) (data : Word) (s : State) : State × Reply :=
  match argEvent arg with
  | none => (s, .bare .badArgument)
  | some i =>
    let count := (data.extractLsb' 0 8).toNat
    if 15 < count then (s, .bare .badArgument)
    else if s.events[i].count.toNat = count then
      (s.clearPending i, .okData ((s.clearPending i).eventWord i))
    else (s, { result := .stale, data := s.eventWord i })

/-- The value of the counter at an index of a domain (Table 11.2). -/
def State.counterAt (s : State) (d i : Nat) : Option Half :=
  match d with
  | 0 => s.dom0.counters[i]?
  | 1 => s.dom1.counters[i]?
  | 2 => s.devCounters[i]?
  | _ => none

/-- READ_COUNTER (R169). -/
def State.counterReply (s : State) (arg : Byte) : Reply :=
  match s.counterAt (argLow arg) (argHigh arg) with
  | some c => .okData (c.setWidth 32)
  | none => .bare .badArgument

/-- CLEAR_COUNTERS (R169). -/
def clearCountersBody (arg : Byte) (s : State) : State × Reply :=
  match arg.toNat with
  | 0 => (s.clearDomCounters .d0, .bare .ok)
  | 1 => (s.clearDomCounters .d1, .bare .ok)
  | 2 => (s.clearDevCounters, .bare .ok)
  | 3 => (s.clearAllCounters, .bare .ok)
  | _ => (s, .bare .badArgument)

/-! ### Commands on domains and the device (R158, R159) -/

/-- The kind field of INVALID_TABLE (Table 10.9). -/
def TableKind.bits : TableKind → BitVec 3
  | noWindow => 1
  | misaligned => 2
  | windowOverlap => 3
  | groupOutside => 4
  | groupOverlap => 5

/-- The data of INVALID_TABLE: index in bits 3..0, kind in bits 10..8 (Table 10.9). -/
def tableFaultWord (f : TableKind × Nat) : Word :=
  0#21 ++ f.1.bits ++ 0#4 ++ BitVec.ofNat 4 f.2

/-- Domain `d` becomes ACTIVE; its epoch timer starts if TIMER_RUN_d is 1 (R120). -/
def Domain.started (x : Domain) : Domain :=
  { x with state := .active, timer := if x.params.timerRun then some x.params.period.toNat else none }

/-- START of a domain (R120, R121). -/
def startDomain (d : Dom) (s : State) : State × Reply :=
  if s.inUse d then (s, .bare .state)
  else match s.tableFault d with
    | some f => (s, { result := .invalidTable, data := tableFaultWord f })
    | none => (s.updDom d Domain.started, .bare .ok)

/-- STOP of a domain (R123, R32). -/
def stopDomain (d : Dom) (s : State) : State × Reply :=
  if (s.dom d).state = .active then
    ((s.updDom d fun x => { x with state := .flushing false }).request d .stop, .bare .ok)
  else (s, .bare .state)

/-- CLOSE of a domain (R31). -/
def closeDomain (d : Dom) (s : State) : State × Reply :=
  if (s.dom d).state = .active then (s.request d .link, .bare .ok) else (s, .bare .state)

/-- DISCARD is taken when the domain is ACTIVE, or FLUSHING with its scheduler not IDLE (R158). -/
def State.discardable (s : State) (d : Dom) : Bool :=
  match (s.dom d).state with
  | .active => true
  | .flushing _ => decide ((s.dom d).sched ≠ .idle)
  | .off => false

/-- DISCARD of a domain (R21, R41, R158). -/
def discardDomain (d : Dom) (s : State) : State × Reply :=
  if s.discardable d then (s.discardOpen d, .bare .ok) else (s, .bare .state)

/-- A command whose argument byte names a domain 0 or 1 (Table 10.3). -/
def onDomain (arg : Byte) (body : Dom → State → State × Reply) (s : State) : State × Reply :=
  match argDom arg with
  | some d => body d s
  | none => (s, .bare .badArgument)

/-- RESTART accepted (R126, R159). -/
def restartBody (s : State) : State × Reply :=
  (s.acceptRestart, .bare .ok)

end Sys2Proof.Machine
end

