-- ==== Sys2Proof/Machine/LinkRead.lean ====
section
/-! DEFINITION. The setup link commands that only read (section 10.4), and NOP (R159). -/

namespace Sys2Proof.Machine

/-- NOP (R159): answered OK with data 0. -/
def execNop (arg : Byte) (data : Word) (tag : Byte) (s : State) : Host.Outcome State Fault Refusal :=
  .next (s.settle.linkCommand .nop arg data tag (reading fun _ => .bare .ok))

/-- READ_PARAM (R163, R155). -/
def execReadParam (arg : Byte) (data : Word) (tag : Byte) (s : State) : Host.Outcome State Fault Refusal :=
  .next (s.settle.linkCommand .readParam arg data tag (reading fun s => s.paramReply arg))

/-- READ_STATE (R155, R7, R43, R65, R76, R104). -/
def execReadState (arg : Byte) (data : Word) (tag : Byte) (s : State) : Host.Outcome State Fault Refusal :=
  .next (s.settle.linkCommand .readState arg data tag (reading fun s => s.stateReply arg))

/-- READ_EVENT (R144). -/
def execReadEvent (arg : Byte) (data : Word) (tag : Byte) (s : State) : Host.Outcome State Fault Refusal :=
  .next (s.settle.linkCommand .readEvent arg data tag (reading fun s => s.eventReply arg))

/-- READ_COUNTER (R169). -/
def execReadCounter (arg : Byte) (data : Word) (tag : Byte) (s : State) : Host.Outcome State Fault Refusal :=
  .next (s.settle.linkCommand .readCounter arg data tag (reading fun s => s.counterReply arg))

/-- READ_HISTORY (R139). -/
def execReadHistory (arg : Byte) (data : Word) (tag : Byte) (s : State) : Host.Outcome State Fault Refusal :=
  .next (s.settle.linkCommand .readHistory arg data tag (reading fun s => s.historyReply arg))

/-- READ_RESET_RECORD (R132). -/
def execReadResetRecord (arg : Byte) (data : Word) (tag : Byte) (s : State) : Host.Outcome State Fault Refusal :=
  .next (s.settle.linkCommand .readResetRecord arg data tag (reading fun s => s.resetRecordReply arg))

end Sys2Proof.Machine
end

