-- ==== Sys2Proof/Machine/LinkWrite.lean ====
section
/-! DEFINITION. The setup link commands that write state (sections 10.5 and 10.6). -/

namespace Sys2Proof.Machine

/-- WRITE_PARAM (R156). -/
def execWriteParam (arg : Byte) (data : Word) (tag : Byte) (s : State) : Host.Outcome State Fault Refusal :=
  .next (s.settle.linkCommand .writeParam arg data tag (writeParamBody arg data))

/-- WRITE_TIMER_RUN (R27): the WRITE_PARAM frame of TIMER_RUN_d. -/
def execWriteTimerRun (d : Dom) (value : Word) (tag : Byte) (s : State) : Host.Outcome State Fault Refusal :=
  let n := (Param.setting d .timerRun).num
  .next (s.settle.linkCommand .writeParam n value tag (writeParamBody n value))

/-- WRITE_EVENT_ENABLE (R142): the WRITE_PARAM frame of EVENT_ENABLE. IRQ_N follows at once, since it is computed (R143). -/
def execWriteEventEnable (value : Word) (tag : Byte) (s : State) : Host.Outcome State Fault Refusal :=
  let n := Param.eventEnable.num
  .next (s.settle.linkCommand .writeParam n value tag (writeParamBody n value))

/-- ACK_EVENT (R145). -/
def execAckEvent (arg : Byte) (data : Word) (tag : Byte) (s : State) : Host.Outcome State Fault Refusal :=
  .next (s.settle.linkCommand .ackEvent arg data tag (ackEventBody arg data))

/-- CLEAR_COUNTERS (R169). -/
def execClearCounters (arg : Byte) (data : Word) (tag : Byte) (s : State) : Host.Outcome State Fault Refusal :=
  .next (s.settle.linkCommand .clearCounters arg data tag (clearCountersBody arg))

/-- START (R120). -/
def execStart (arg : Byte) (data : Word) (tag : Byte) (s : State) : Host.Outcome State Fault Refusal :=
  .next (s.settle.linkCommand .start arg data tag (onDomain arg startDomain))

/-- STOP (R123). -/
def execStop (arg : Byte) (data : Word) (tag : Byte) (s : State) : Host.Outcome State Fault Refusal :=
  .next ((s.settleForFrame arg .stop).linkCommand .stop arg data tag (onDomain arg stopDomain))

/-- CLOSE (R31). -/
def execClose (arg : Byte) (data : Word) (tag : Byte) (s : State) : Host.Outcome State Fault Refusal :=
  .next ((s.settleForFrame arg .link).linkCommand .close arg data tag (onDomain arg closeDomain))

/-- DISCARD (R21, R41). -/
def execDiscard (arg : Byte) (data : Word) (tag : Byte) (s : State) : Host.Outcome State Fault Refusal :=
  .next (s.settle.linkCommand .discard arg data tag (onDomain arg discardDomain))

/-- RESTART (R126). -/
def execRestart (arg : Byte) (data : Word) (tag : Byte) (s : State) : Host.Outcome State Fault Refusal :=
  .next (s.settle.linkCommand .restart arg data tag restartBody)

end Sys2Proof.Machine
end

