-- ==== Sys2Proof/Machine/LinkFrames.lean ====
section
/-! DEFINITION. Frames that carry no command the part executes: torn, failing the check, with an unknown code. A frame sent under
one of these rows that is sound and names a command is what it is: the part executes it (R154, log 9). -/

namespace Sys2Proof.Machine

/-- The level of SL_DO, `none` where it is not driven: while the interface is DESELECTED (Table 10.1) and while RESET_N is low (R160,
R173). -/
def State.slDo (s : State) : Option Bool :=
  if s.resetN then s.link.slDo else none

/-- The frame whose 64 bits these are, first sent first (R149). -/
def frameOfBits (bits : List Bool) : Frame :=
  bits.foldl (fun f b => f <<< 1 ||| (BitVec.ofBool b).setWidth 64) 0

/-- A frame whose bit count is not 64 is discarded: nothing it carried is kept, and the response buffer stays (R150, R151). That the
interface holds no received bit after it, rather than those of an earlier frame, is DESIGN CHOICE (log 8): no later command
reads them. -/
def State.tearFrame (s : State) (bits : List Bool) : State :=
  let s := { s with link := { s.link.receive bits with kept := [] } }
  (s.bumpDev .tornFrames).raise .linkError

/-- A sound frame whose byte 0 is not a command code (R154, test 1). -/
def State.unknownFrame (s : State) (code arg : Byte) (data : Word) (tag : Byte) : State :=
  s.takeFrame fun s => (s.shiftFrame (commandFrame code arg data tag)).respond code tag (.bare .unknown)

/-- A sound frame is executed by its byte 0 (R154). -/
def executeFrame (code arg : Byte) (data : Word) (tag : Byte) (s : State) : Host.Outcome State Fault Refusal :=
  match Command.ofCode? code with
  | none => .next (s.settle.unknownFrame code arg data tag)
  | some .nop => execNop arg data tag s
  | some .readParam => execReadParam arg data tag s
  | some .readState => execReadState arg data tag s
  | some .readEvent => execReadEvent arg data tag s
  | some .readCounter => execReadCounter arg data tag s
  | some .readHistory => execReadHistory arg data tag s
  | some .readResetRecord => execReadResetRecord arg data tag s
  | some .writeParam => execWriteParam arg data tag s
  | some .ackEvent => execAckEvent arg data tag s
  | some .clearCounters => execClearCounters arg data tag s
  | some .start => execStart arg data tag s
  | some .stop => execStop arg data tag s
  | some .close => execClose arg data tag s
  | some .discard => execDiscard arg data tag s
  | some .restart => execRestart arg data tag s

/-- A complete frame that fails its check: CHECK_FAILS, LINK_ERROR, and the response CHECK_FAIL with the command byte and the tag as
received (R152). -/
def State.failCheck (s : State) (f : Frame) : State :=
  let s := s.shiftFrame f
  ((s.bumpDev .checkFails).raise .linkError).respond (frameByte f 0) (frameByte f 6) (.bare .checkFail)

/-- FRAME_CHECK_FAIL (R152). -/
def execFrameCheckFail (frame : Frame) (s : State) : Host.Outcome State Fault Refusal :=
  if frameSound frame then executeFrame (frameByte frame 0) (frameByte frame 1) (frameData frame) (frameByte frame 6) s
  else
    .next (s.settle.takeFrame fun s => s.failCheck frame)

/-- TORN_FRAME (R151). Bits that make 64 are no torn frame but a complete one (R150), and are judged as one (log 9). -/
def execTornFrame (bits : List Bool) (s : State) : Host.Outcome State Fault Refusal :=
  if bits.length = 64 then execFrameCheckFail (frameOfBits bits) s
  else .next (s.settle.takeFrame fun s => s.tearFrame bits)

/-- UNKNOWN_COMMAND (R154). -/
def execUnknownCommand (code arg : Byte) (data : Word) (tag : Byte) (s : State) : Host.Outcome State Fault Refusal :=
  executeFrame code arg data tag s

end Sys2Proof.Machine
end

