-- ==== Sys2Proof/Machine/Memory.lean ====
section
/-! DEFINITION. The memory port: the grant, memory's answer, the withdrawal. -/

namespace Sys2Proof.Machine

/-- MEMORY_GRANT (R107, R108, R109): the grant, if it is due. It is one of the part's own instants (log 2): the next command, or the
next CLK period, finds it taken where the queue does not name it (log 3). -/
def execMemoryGrant (s : State) : Host.Outcome State Fault Refusal :=
  .next (s.tryGrant.getD s)

/-- MEMORY_ANSWER (R110): the answer goes to the owner of the outstanding access, and the grant that the free port makes is due.
With no access outstanding, as in the CLK period of MP_CANCEL and while RESET_N is low, it is not taken (R172, R173). -/
def execMemoryAnswer (err : Bool) (rdata : Word) (s : State) : Host.Outcome State Fault Refusal :=
  let s := s.settle
  .next <|
    if !s.resetN then s
    else match s.arb.mp with
      | none => s
      | some o => s.endAccess.deliver o err rdata

/-- MEM_TIMEOUT_EXPIRY (R111): the outstanding access is withdrawn, at the edge of MP_CANCEL, and what is due at that edge is
taken there, the grant of the free port included. With none outstanding no limit runs. -/
def execMemTimeoutExpiry (s : State) : Host.Outcome State Fault Refusal :=
  let s := s.settle
  .next (if s.resetN && s.arb.mp.isSome then s.withdraw.settle else s)

/-! ### What the part drives on MP (R172, R173) -/

/-- MP_REQ: high while an access is outstanding. -/
def State.mpReq (s : State) : Bool := s.arb.mp.isSome

/-- MP_CANCEL. -/
def State.mpCancel (s : State) : Bool := s.arb.cancel

/-- MP_WE, MP_ADDR, MP_BE and MP_WDATA of the access outstanding. -/
def State.mpRequest (s : State) : Option Request := s.arb.mp.map Outstanding.req

end Sys2Proof.Machine
end

