-- ==== Sys2Proof/Machine/Ports.lean ====
section
/-! DEFINITION. The accesses of the two upstream ports. An access presented while its port has one outstanding, or while
RESET_N is low, is not accepted (R170), and does nothing (log 7). Whether a port has one outstanding is judged before the part's own
instants: a placing that is due answers the access outstanding, and the port takes the next one after that answer (R17, R170). -/

namespace Sys2Proof.Machine

/-- What a write meets in the journal of domain `d` (Table 1.2), its byte enables not all clear (R9, R10, R14, R15). -/
def State.journalWrite (s : State) (d : Dom) (a : Addr) (be : Lanes) (data : Word) : State :=
  if ((s.dom d).openBank.lookup a).isSome then (s.coalesceEntry d a be data).answerWp false 0
  else if s.hasRoom d then (s.appendEntry d a be data).answerWp false 0
  else match (s.dom d).params.policy with
    | .wait => s.hold d .space a be data
    | .early => (s.hold d .space a be data).request d .fill
    | .refuse => ((s.bump d .writeFails 1).raise (.dom d .writeFail)).answerWp true 0

/-- A writer window write of domain `d` (Table 7.2, R8, R117). -/
def State.windowWrite (s : State) (d : Dom) (a : Addr) (be : Lanes) (data : Word) : State :=
  if be = 0 then s.answerWp false 0
  else if s.device = .restarting then s.hold d .restart a be data
  else if (s.dom d).state = .flushing true then s.hold d .flush a be data
  else s.journalWrite d a be data

/-- A write raises a FILL request: it needs a new entry in the journal of domain `d`, none can be had, and FULL_POLICY_d is EARLY
(R14, R15). -/
def State.fills (s : State) (d : Dom) (a : Addr) (be : Lanes) : Bool :=
  decide (be ≠ 0) && s.takesRequests d && ((s.dom d).openBank.lookup a).isNone && !s.hasRoom d &&
    decide ((s.dom d).params.policy = .early)

/-- The state in which a write finds the part: with the due commit point of its domain held back if the write raises a FILL
request then (R36, R51), and else with that commit point taken. -/
def State.settleForWrite (s : State) (a : Addr) (be : Lanes) : State :=
  match s.classify a with
  | none => s.settleForAccess
  | some d =>
    let q := s.settleHolding { s.holdFor d .fill with grant := true }
    if q.fills d a be then q else s.settleForAccess

/-- WRITER_PORT_WRITE (R117, R116). -/
def execWriterPortWrite (addr : Addr) (be : Lanes) (data : Word) (s : State) : Host.Outcome State Fault Refusal :=
  .next <|
    if !s.wpAccepts then s.settle
    else
      let s := s.settleForWrite addr be
      match s.classify addr with
      | some d => s.acceptWp.windowWrite d addr be data
      | none => s.acceptWp.presentWp { write := true, addr := addr, be := be, data := data }

/-- A writer read whose record is filled is answered at once when all lanes are covered, and otherwise asks memory with the
request `m` (R84). -/
def State.startWpRead (s : State) (r : ReadRecord) (m : Request) : State :=
  if r.covered = 0xF then s.answerWp false r.bytes
  else ({ s with wpRead := some r }).presentWp m

/-- A consumer read in the same way (R84). -/
def State.startCpRead (s : State) (r : ReadRecord) (m : Request) : State :=
  if r.covered = 0xF then s.answerCp false r.bytes
  else ({ s with cpRead := some r }).presentCp m

/-- WRITER_PORT_READ (R79, R80, R82, R84): a resolved read asks memory for the whole word, a pass-through read as captured. -/
def execWriterPortRead (addr : Addr) (lines : ReadLines) (s : State) : Host.Outcome State Fault Refusal :=
  .next <|
    if !s.wpAccepts then s.settle
    else
      let s := s.settleForAccess
      match s.classify addr with
      | some d => s.acceptWp.startWpRead (s.wpLookup d addr) (memoryRead addr)
      | none => s.acceptWp.startWpRead (passThroughRead addr) (passThroughRequest addr lines.be lines.data)

/-- CONSUMER_PORT_READ (R79, R80, R83, R84). -/
def execConsumerPortRead (addr : Addr) (lines : ReadLines) (s : State) : Host.Outcome State Fault Refusal :=
  .next <|
    if !s.cpAccepts then s.settle
    else
      let s := s.settleForAccess
      match s.classify addr with
      | some d => s.acceptCp.startCpRead (s.cpLookup d addr) (memoryRead addr)
      | none => s.acceptCp.startCpRead (passThroughRead addr) (passThroughRequest addr lines.be lines.data)

/-- A consumer write in a window of a domain in use is refused (R118). -/
def State.refuseCpWrite (s : State) (d : Dom) : State :=
  ((s.bump d .cpRefusals 1).raise (.dom d .cpRefused)).answerCp true 0

/-- CONSUMER_PORT_WRITE (R118, R116). -/
def execConsumerPortWrite (addr : Addr) (be : Lanes) (data : Word) (s : State) : Host.Outcome State Fault Refusal :=
  .next <|
    if !s.cpAccepts then s.settle
    else
      let s := s.settleForAccess
      match s.classify addr with
      | some d => s.acceptCp.refuseCpWrite d
      | none => s.acceptCp.presentCp { write := true, addr := addr, be := be, data := data }

end Sys2Proof.Machine
end

