-- ==== Sys2Proof/Machine/Reset.lean ====
section
/-! DEFINITION. RESET_N and power-up. -/

namespace Sys2Proof.Machine

/-- RESET_N_ASSERTION (R131, R173): what is due at that instant has been taken before. With RESET_N already low there is no
assertion. -/
def execResetNAssertion (s : State) : Host.Outcome State Fault Refusal :=
  let s := s.settle
  .next (if s.resetN then s.assertReset else s)

/-- RESET_N_RELEASE (R130, R173): every block is in its reset state but the reset record, MP_CANCEL is low, the lines are taken
at their present levels, and the time base begins a new tick (R25). With RESET_N high there is no release. -/
def execResetNRelease (lines : Lines) (s : State) : Host.Outcome State Fault Refusal :=
  .next <|
    if s.resetN then s
    else
      ({ State.reset with
          dom0 := { Domain.reset with lost := s.dom0.lost }
          dom1 := { Domain.reset with lost := s.dom1.lost }
          recValid := s.recValid
          recHeldLost := s.recHeldLost
          pending := s.pending }).takeLines lines

/-- POWER_UP (R132): every block in its reset state, the reset record cleared, the lines taken as they stand; `resetN` says
whether RESET_N is high already. -/
def execPowerUp (resetN : Bool) (lines : Lines) (s : State) : Host.Outcome State Fault Refusal :=
  .next <|
    ({ State.reset with
        resetN := resetN, arb := { Arbiter.reset with cancel := !resetN }, pending := s.pending }).takeLines lines

end Sys2Proof.Machine
end

