-- ==== Sys2Proof/Machine/Timing.lean ====
section
/-! DEFINITION. The limits, the epoch timer, the epoch lines, the sampling lines, and the time base.
An expiry of a limit that does not run does nothing (R26, R27), and while RESET_N is low none does (R173). Each expiry has one
operation, which the row of the table and the end of a tick share. -/

namespace Sys2Proof.Machine

/-- The epoch timer of domain `d` expires: it is reloaded with PERIOD_d and raises a TIMER request (R28, R29). -/
def State.expireTimer (s : State) (d : Dom) : State :=
  match (s.dom d).timer with
  | none => s
  | some _ => (s.updDom d fun x => { x with timer := some x.params.period.toNat }).request d .timer

/-- GROUP_HOLD_d expires in SETTLE (R38, R59). -/
def Domain.expireGroupHold (x : Domain) : Domain :=
  match x.sched with
  | .settle b (some _) l => { x with sched := .settle { b with groupExpired := true } none l }
  | .settle _ none _ => x
  | .idle => x
  | .drainWait _ => x

/-- SAMPLE_HOLD_d expires in SETTLE (R38, R71). -/
def Domain.expireSampleHold (x : Domain) : Domain :=
  match x.sched with
  | .settle b g (some _) => { x with sched := .settle { b with sampleExpired := true } g none }
  | .settle _ _ none => x
  | .idle => x
  | .drainWait _ => x

/-- The WRITE_HOLD limit of the held write expires (R18). -/
def State.expireWriteHold (s : State) : State :=
  match s.held with
  | none => s
  | some h => s.expireHeld h

/-- EPOCH_TIMER_EXPIRY (R28). -/
def execEpochTimerExpiry (d : Dom) (s : State) : Host.Outcome State Fault Refusal :=
  .next (if s.resetN then (s.settleForRequest d .timer).expireTimer d else s)

/-- GROUP_HOLD_EXPIRY (R59). -/
def execGroupHoldExpiry (d : Dom) (s : State) : Host.Outcome State Fault Refusal :=
  let s := s.settle
  .next (if s.resetN then s.updDom d Domain.expireGroupHold else s)

/-- SAMPLE_HOLD_EXPIRY (R71). -/
def execSampleHoldExpiry (d : Dom) (s : State) : Host.Outcome State Fault Refusal :=
  let s := s.settle
  .next (if s.resetN then s.updDom d Domain.expireSampleHold else s)

/-- WRITE_HOLD_EXPIRY (R18). -/
def execWriteHoldExpiry (s : State) : Host.Outcome State Fault Refusal :=
  let s := s.settle
  .next (if s.resetN then s.expireWriteHold else s)

/-- A rising edge that is taken raises a LINE request when the device is RUNNING, the domain ACTIVE and LINE_EN_d 1 (R30). -/
def State.lineEdge (s : State) (d : Dom) : State :=
  let s' := s.updDom d fun x => { x with epochIn := true }
  if s.device = .running ∧ (s.dom d).state = .active ∧ (s.dom d).params.lineEn then s'.request d .line else s'

/-- EPOCH_IN_RISING_EDGE (R30): the line goes high. An edge counts only after a low level that has been taken (R174), and
none counts while RESET_N is low. -/
def execEpochInRisingEdge (d : Dom) (s : State) : Host.Outcome State Fault Refusal :=
  let s := s.settleForRequest d .line
  .next (if s.resetN && !(s.dom d).epochIn then s.lineEdge d else s)

/-- EPOCH_IN_FALLING_LEVEL (R30): the low level is taken, and the next rising edge can count. -/
def execEpochInFallingLevel (d : Dom) (s : State) : Host.Outcome State Fault Refusal :=
  let s := s.settle
  .next (if s.resetN then s.updDom d fun x => { x with epochIn := false } else s)

/-- SAMPLE_N_LEVEL_CHANGE (R67, R69): the level is taken; in SETTLE the commit condition is tested again, since the commit point
is due from the moment it holds. -/
def execSampleNLevelChange (d : Dom) (level : Bool) (s : State) : Host.Outcome State Fault Refusal :=
  let s := s.settle
  .next (if s.resetN then s.updDom d fun x => { x with sampleN := level } else s)

/-! ### The time base (R25, R26) -/

/-- One tick off what is left of a running limit. -/
def tickLeft (left : Option Nat) : Option Nat := left.map (· - 1)

/-- One tick off the limits of a domain. -/
def Domain.tickLimits (x : Domain) : Domain :=
  { x with
    timer := tickLeft x.timer
    sched := match x.sched with
      | .settle b g l => .settle b (tickLeft g) (tickLeft l)
      | .idle => .idle
      | .drainWait b => .drainWait b }

/-- One tick off every running limit. -/
def State.tickLimits (s : State) : State :=
  { s with
    dom0 := s.dom0.tickLimits
    dom1 := s.dom1.tickLimits
    held := s.held.map fun h => { h with left := h.left - 1 }
    arb := { s.arb with mp := s.arb.mp.map fun o => { o with left := o.left - 1 } } }

/-- The epoch timer of domain `d`, if its count has ended. -/
def State.endTimer (s : State) (d : Dom) : State :=
  if (s.dom d).timer = some 0 then s.expireTimer d else s

/-- GROUP_HOLD_d, if its count has ended. -/
def State.endGroupHold (s : State) (d : Dom) : State :=
  match (s.dom d).sched with
  | .settle _ (some 0) _ => s.updDom d Domain.expireGroupHold
  | _ => s

/-- SAMPLE_HOLD_d, if its count has ended. -/
def State.endSampleHold (s : State) (d : Dom) : State :=
  match (s.dom d).sched with
  | .settle _ _ (some 0) => s.updDom d Domain.expireSampleHold
  | _ => s

/-- The WRITE_HOLD limit, if its count has ended. -/
def State.endWriteHold (s : State) : State :=
  match s.held with
  | some h => if h.left = 0 then s.expireHeld h else s
  | none => s

/-- The expiries of domain `d` at the end of a tick; what each makes due is taken before the next. -/
def State.domExpiries (s : State) (d : Dom) : State :=
  (((s.endTimer d).settle.endGroupHold d).settle.endSampleHold d).settle

/-- The end of a tick: it is numbered, the next one has the length TICK_DIV has now, every running limit counts it, and those
whose count has ended expire. An expired MEM_TIMEOUT is acted on at the next edge of CLK (R111). -/
def State.endTick (s : State) : State :=
  let s := { s with time := { tick := s.time.tick + 1, clk := 0, tickLen := s.tickDiv } }
  let s := s.tickLimits
  ((s.endWriteHold.settle).domExpiries .d0).domExpiries .d1

/-- At an edge of CLK the periods of X_DONE end (R170). -/
def State.endAnswers (s : State) : State :=
  { s with wp := s.wp.endPeriod, cp := s.cp.endPeriod }

/-- At an edge of CLK the period of MP_CANCEL ends, and an access granted in it is issued (R111, R172). -/
def State.endCancel (s : State) : State :=
  { s with arb := s.arb.endCancel s.memTimeout.toNat }

/-- At an edge of CLK an access whose MEM_TIMEOUT has expired is withdrawn (R111, R172). -/
def State.edgeOfMp (s : State) : State :=
  match s.arb.mp with
  | some o => if o.left = 0 then s.withdraw else s
  | none => s

/-- One period of CLK passes with no command; the last period of a tick ends the tick (R25). The answers of the period before end
first: an answer that an instant of this edge gives is there in the period that follows. While RESET_N is low the time base
stands. -/
def State.clkPeriod (s : State) : State :=
  if !s.resetN then s
  else
    let s := s.endAnswers.settle.endCancel.edgeOfMp.settle
    if s.time.clk + 1 < s.time.tickLen.toNat then { s with time := { s.time with clk := s.time.clk + 1 } }
    else s.endTick

end Sys2Proof.Machine
end

