-- ==== Sys2Proof/Machine/Dispatch.lean ====
section
/-! DEFINITION. One arm per command: each calls its meaning. -/

namespace Sys2Proof.Machine

def exec (i : Instr) (s : State) : Host.Outcome State Fault Refusal :=
  match i with
  | .writerPortWrite addr be data => Sys2Proof.Machine.execWriterPortWrite addr be data s
  | .writerPortRead addr lines => Sys2Proof.Machine.execWriterPortRead addr lines s
  | .consumerPortRead addr lines => Sys2Proof.Machine.execConsumerPortRead addr lines s
  | .consumerPortWrite addr be data => Sys2Proof.Machine.execConsumerPortWrite addr be data s
  | .memoryGrant => Sys2Proof.Machine.execMemoryGrant s
  | .memoryAnswer err rdata => Sys2Proof.Machine.execMemoryAnswer err rdata s
  | .memTimeoutExpiry => Sys2Proof.Machine.execMemTimeoutExpiry s
  | .epochTimerExpiry d => Sys2Proof.Machine.execEpochTimerExpiry d s
  | .epochInRisingEdge d => Sys2Proof.Machine.execEpochInRisingEdge d s
  | .sampleNLevelChange d level => Sys2Proof.Machine.execSampleNLevelChange d level s
  | .groupHoldExpiry d => Sys2Proof.Machine.execGroupHoldExpiry d s
  | .sampleHoldExpiry d => Sys2Proof.Machine.execSampleHoldExpiry d s
  | .writeHoldExpiry => Sys2Proof.Machine.execWriteHoldExpiry s
  | .commitPoint d => Sys2Proof.Machine.execCommitPoint d s
  | .placeHeldWrite => Sys2Proof.Machine.execPlaceHeldWrite s
  | .heldWriteRelease => Sys2Proof.Machine.execHeldWriteRelease s
  | .drainBankBegin => Sys2Proof.Machine.execDrainBankBegin s
  | .drainEnd => Sys2Proof.Machine.execDrainEnd s
  | .restartCompletion => Sys2Proof.Machine.execRestartCompletion s
  | .resetNAssertion => Sys2Proof.Machine.execResetNAssertion s
  | .resetNRelease lines => Sys2Proof.Machine.execResetNRelease lines s
  | .powerUp resetN lines => Sys2Proof.Machine.execPowerUp resetN lines s
  | .tornFrame bits => Sys2Proof.Machine.execTornFrame bits s
  | .frameCheckFail frame => Sys2Proof.Machine.execFrameCheckFail frame s
  | .unknownCommand code arg data tag => Sys2Proof.Machine.execUnknownCommand code arg data tag s
  | .nop arg data tag => Sys2Proof.Machine.execNop arg data tag s
  | .readParam arg data tag => Sys2Proof.Machine.execReadParam arg data tag s
  | .writeParam arg data tag => Sys2Proof.Machine.execWriteParam arg data tag s
  | .writeTimerRun d value tag => Sys2Proof.Machine.execWriteTimerRun d value tag s
  | .writeEventEnable value tag => Sys2Proof.Machine.execWriteEventEnable value tag s
  | .readState arg data tag => Sys2Proof.Machine.execReadState arg data tag s
  | .readEvent arg data tag => Sys2Proof.Machine.execReadEvent arg data tag s
  | .ackEvent arg data tag => Sys2Proof.Machine.execAckEvent arg data tag s
  | .readCounter arg data tag => Sys2Proof.Machine.execReadCounter arg data tag s
  | .clearCounters arg data tag => Sys2Proof.Machine.execClearCounters arg data tag s
  | .readHistory arg data tag => Sys2Proof.Machine.execReadHistory arg data tag s
  | .readResetRecord arg data tag => Sys2Proof.Machine.execReadResetRecord arg data tag s
  | .start arg data tag => Sys2Proof.Machine.execStart arg data tag s
  | .stop arg data tag => Sys2Proof.Machine.execStop arg data tag s
  | .close arg data tag => Sys2Proof.Machine.execClose arg data tag s
  | .discard arg data tag => Sys2Proof.Machine.execDiscard arg data tag s
  | .restart arg data tag => Sys2Proof.Machine.execRestart arg data tag s
  | .epochInFallingLevel d => Sys2Proof.Machine.execEpochInFallingLevel d s

end Sys2Proof.Machine
end

