-- ==== Sys2Proof/WellFormed.lean ====
section
/-! DEFINITION. The operands a row of the table can have. Every other operand is bounded by its type. -/

namespace Sys2Proof

/-- A torn frame has a bit count other than 64 (R150); a frame that fails its check has a byte 7 that is not the CRC-8 (R152); an
unknown command has a byte 0 that Table 10.4 does not list (R154). -/
def Instr.wellFormed : Instr → Bool
  | .tornFrame bits => decide (bits.length ≠ 64)
  | .frameCheckFail frame => !Machine.frameSound frame
  | .unknownCommand code _ _ _ => (Machine.Command.ofCode? code).isNone
  | _ => true

end Sys2Proof
end

