-- ==== Sys2Proof/Safety.lean ====
section
/-! DEFINITION. What holds of the part at every moment, as the rules say it: the terms the statements are made in. -/

namespace Sys2Proof.Machine

/-- The slots of the entry pool that are free or hold an entry of a bank (R1). -/
def State.slots (s : State) : Nat :=
  s.free + s.dom0.openBank.length + s.dom1.openBank.length + s.dom0.drainBank.length + s.dom1.drainBank.length

/-- The elements of domain `d` in the drain queue, counted. -/
def State.elementCount (s : State) (d : Dom) : Nat :=
  s.queue.countP fun e => decide (e.dom = d)

/-- The scheduler is in SETTLE. -/
def Sched.settling : Sched → Bool
  | .settle _ _ _ => true
  | .idle => false
  | .drainWait _ => false

/-- R1, R39, R95, R99: the 512 slots are all accounted for; a domain has at most one element in the drain queue, and in SETTLE
none and an empty draining bank; an element's bank holds committed minus retired entries; a domain with no element has an empty
draining bank. -/
structure State.SlotsInOrder (s : State) : Prop where
  conserved : s.slots = Config.poolSize
  oneElement : ∀ d, s.elementCount d ≤ 1
  settled : ∀ d, (s.dom d).sched.settling = true → (s.dom d).drainBank = [] ∧ s.elementCount d = 0
  counted : ∀ e ∈ s.queue, e.committed = e.retired + (s.dom e.dom).drainBank.length
  drained : ∀ d, s.elementCount d = 0 → (s.dom d).drainBank = []

/-- R8, R33: the moments at which domain `d` takes journaled writes and boundary requests. -/
abbrev State.journals (s : State) (d : Dom) : Prop :=
  s.device = .running ∧ ((s.dom d).state = .active ∨ (s.dom d).state = .flushing false)

/-- R6, R12, R42, R119, R124, R127: a domain that is OFF has empty banks, an IDLE scheduler and a stopped timer; past its final commit
point it has an empty open bank and an IDLE scheduler; while the device is RESTARTING every open bank is empty, every scheduler
IDLE and every timer stopped; a held write waits for SPACE only while its domain takes journaled writes; no open bank holds
more than QUOTA_d entries. R23, R42, R77, R106, R173: while RESET_N is low there is no held write, no drain, no entry, no pending
boundary, and no timer runs. -/
structure State.StatesInOrder (s : State) : Prop where
  slots : s.SlotsInOrder
  offEmpty : ∀ d, (s.dom d).state = .off → (s.dom d).openBank = [] ∧ (s.dom d).drainBank = []
  offIdle : ∀ d, (s.dom d).state = .off → (s.dom d).sched = .idle ∧ (s.dom d).timer = none
  finalEmpty : ∀ d, (s.dom d).state = .flushing true → (s.dom d).openBank = [] ∧ (s.dom d).sched = .idle
  restartingEmpty : s.device = .restarting →
    ∀ d, (s.dom d).openBank = [] ∧ (s.dom d).sched = .idle ∧ (s.dom d).timer = none
  heldSpace : ∀ h, s.held = some h → h.reason = .space → s.journals h.dom
  quota : ∀ d, (s.dom d).openBank.length ≤ (s.dom d).params.quota.toNat
  lowEmpty : s.resetN = false → s.held = none ∧ s.queue = [] ∧ s.engine = .idle ∧ s.device = .running ∧
    ∀ d, (s.dom d).state = .off

/-- The records of domain `d` in the ring, newest first. -/
def State.recordsOf (s : State) (d : Dom) : List HistoryRecord :=
  s.history.filter fun r => decide (r.dom = d)

/-- R136: the fields of a record hold together. -/
structure HistoryRecord.InOrder (r : HistoryRecord) : Prop where
  empty : r.empty = true ↔ r.committed = 0
  notNeeded : r.empty = true ↔ r.drain = .notNeeded
  lost : r.lost ≤ r.committed
  committed : r.committed ≤ 512
  final : r.causes.stop = true → r.final = true
  merged : r.merged ≤ 15

/-- R133, R135: the ring holds at most 16 records, and the record at index `i` carries the serial counter minus `i`. R136: the fields
of each hold together, and the epoch numbers of one domain's records fall by one from the newest, which has the domain's present
number. R137, R138: a PENDING record is its domain's newest, and the domain's element is in the drain queue. R35: a pending
boundary with cause STOP is FINAL. -/
structure State.RingInOrder (s : State) : Prop where
  bounded : s.history.length ≤ Config.ringSize
  serials : ∀ i r, s.history[i]? = some r → r.serial = s.serial - BitVec.ofNat 16 i
  records : ∀ r ∈ s.history, r.InOrder
  epochs : ∀ d i r, (s.recordsOf d)[i]? = some r → r.epoch = (s.dom d).epoch - BitVec.ofNat 16 i
  pendingNewest : ∀ d i r, (s.recordsOf d)[i]? = some r → r.drain = .pending → i = 0
  pendingQueued : ∀ r ∈ s.history, r.drain = .pending →
    ∃ e ∈ s.queue, e.dom = r.dom ∧ e.serial = r.serial ∧ e.committed = r.committed ∧ r.lost ≤ e.retired
  boundaries : ∀ d b, (s.dom d).sched.record = some b → (b.causes.stop = true → b.final = true) ∧ b.merged ≤ 15

/-- R109: the wait counts do not exceed 8 for CP and 10 for the others, a requester with no request presented has count 0, and
the counts past 8 leave the others low. -/
structure State.WaitsInOrder (s : State) : Prop where
  cpBound : s.arb.cpWait ≤ 8
  drainBound : s.arb.drainWait ≤ 9
  wpBound : s.arb.wpWait ≤ 10
  drainPassed : s.arb.drainWait = 9 → s.arb.cpWait = 0
  wpPassedOnce : s.arb.wpWait = 9 → s.arb.cpWait = 0 ∨ s.arb.drainWait = 0
  wpPassedTwice : s.arb.wpWait = 10 → s.arb.cpWait ≤ 1 ∧ s.arb.drainWait ≤ 1
  cpAbsent : s.arb.cpReq = none → s.arb.cpWait = 0
  drainAbsent : s.arb.drainReq = none → s.arb.drainWait = 0
  wpAbsent : s.arb.wpReq = none → s.arb.wpWait = 0

/-- One for a thing that is there. -/
def one (b : Bool) : Nat := if b then 1 else 0

/-- The access of a requester that is on MP, or granted and issued when the CLK period of MP_CANCEL is over. -/
def Arbiter.onPort (a : Arbiter) (r : Requester) : Option Request :=
  match a.mp, a.granted with
  | some o, _ => if o.who = r then some o.req else none
  | none, some g => if g.who = r then some g.req else none
  | none, none => none

/-- R170: an access that is outstanding on an upstream port stands in exactly one place from which it will be answered: the held
write, a request presented, or the access granted; with no access outstanding it stands in none. R111, R172: a grant waits for its
issue in the period of MP_CANCEL alone, with no access on MP. R173: with RESET_N low nothing is outstanding or presented. -/
structure State.PortsInOrder (s : State) : Prop where
  writer : one s.held.isSome + one s.arb.wpReq.isSome + one (s.arb.onPort .wp).isSome = one s.wp.busy
  consumer : one s.arb.cpReq.isSome + one (s.arb.onPort .cp).isSome = one s.cp.busy
  cancelled : s.arb.cancel = true → s.arb.mp = none
  waiting : s.arb.granted.isSome = true → s.arb.cancel = true
  lowFree : s.resetN = false →
    s.wp.busy = false ∧ s.cp.busy = false ∧ s.arb.drainReq = none ∧ s.arb.mp = none ∧ s.arb.granted = none

/-- The request of a requester, presented, granted or on MP. -/
def Arbiter.asked (a : Arbiter) (r : Requester) (m : Request) : Prop :=
  a.request r = some m ∨ a.onPort r = some m

/-- R95, R96, R98: the engine is WRITING exactly while the head element is DRAINING, its fence flag clear; exactly one drain write is
presented or granted while the bank of that element holds an entry, none otherwise, and it is the write of the entry in
position 1; the elements behind the head are QUEUED. -/
structure State.EngineInOrder (s : State) : Prop where
  writing : s.engine = .writing ↔ ∃ e rest, s.queue = e :: rest ∧ e.phase = .draining
  behind : ∀ e rest, s.queue = e :: rest → ∀ x ∈ rest, x.phase = .queued
  clear : ∀ e ∈ s.queue, e.phase = .draining → e.fence = false
  oneWrite : ∀ e rest, s.queue = e :: rest → e.phase = .draining →
    one s.arb.drainReq.isSome + one (s.arb.onPort .drain).isSome = one !(s.dom e.dom).drainBank.isEmpty
  noWrite : s.engine = .idle → s.arb.drainReq = none ∧ s.arb.onPort .drain = none
  itsWrite : ∀ m e rest, s.arb.asked .drain m → s.queue = e :: rest → ∃ first bank,
    (s.dom e.dom).drainBank = first :: bank ∧
      m = { write := true, addr := first.addr, be := first.mask, data := laneMerge 0 first.data first.mask }

/-- R81, R84: a read record of a port is present exactly while the port's request, presented, granted or on MP, is a read, of the
record's word, not all of whose lanes are covered; a resolved read asks for the whole word. -/
def readInOrder (k : Option ReadRecord) (a : Arbiter) (r : Requester) : Prop :=
  (∀ x, k = some x → x.covered ≠ 0xF ∧ ∃ m, a.asked r m ∧ m.write = false ∧ m.addr = x.addr ∧
    (x.path ≠ .passThrough → m.be = 0xF)) ∧
  (k = none → ∀ m, a.asked r m → m.write = true)

/-- R81: the read records and the requests agree. R88, R97: an element of the drain queue is fenced exactly while the consumer's
read of its domain is, and the writer's read never is. -/
structure State.ReadsInOrder (s : State) : Prop where
  writer : readInOrder s.wpRead s.arb .wp
  consumer : readInOrder s.cpRead s.arb .cp
  fences : ∀ e ∈ s.queue, e.fence = true ↔ ∃ k, s.cpRead = some k ∧ k.fenced = true ∧ k.path = .resolved e.dom
  writerUnfenced : ∀ k, s.wpRead = some k → k.fenced = false

/-- R3, R4, R17: no bank holds two entries of one word address, no entry has an empty mask, and a write held for SPACE has no
entry for its word in the open bank it waits for. The ports, the drain engine and the reads agree with the requests. -/
structure State.BanksInOrder (s : State) : Prop where
  ports : s.PortsInOrder
  engine : s.EngineInOrder
  reads : s.ReadsInOrder
  openUnique : ∀ d, ((s.dom d).openBank.map Entry.addr).Nodup
  drainUnique : ∀ d, ((s.dom d).drainBank.map Entry.addr).Nodup
  openMasks : ∀ d, ∀ e ∈ (s.dom d).openBank, e.mask ≠ 0
  drainMasks : ∀ d, ∀ e ∈ (s.dom d).drainBank, e.mask ≠ 0
  heldNew : ∀ h, s.held = some h → h.reason = .space → ∀ e ∈ (s.dom h.dom).openBank, e.addr ≠ h.addr
  heldEnables : ∀ h, s.held = some h → h.be ≠ 0

/-- The identity parameters (R164). -/
def Param.identity : Param → Bool
  | .partId => true
  | .revision => true
  | .poolSize => true
  | _ => false

/-- R165: every writable parameter holds a value in its range. -/
def State.ParamsInOrder (s : State) : Prop :=
  ∀ p : Param, p.identity = false → p.inRange (s.param p) = true

/-! ### Terms of the statements -/

/-- The other domain. -/
def otherDom : Dom → Dom
  | .d0 => .d1
  | .d1 => .d0

/-- From `s` to `t` the counters of domain `d` rise by `n` (R168). -/
def State.counted (s t : State) (d : Dom) (n : DomCounter → Nat) : Prop :=
  ∀ c, t.counter d c = satAdd (s.counter d c) (n c)

/-- From `s` to `t` the counters of the device rise by `n` (R168). -/
def State.devCounted (s t : State) (n : DevCounter → Nat) : Prop :=
  ∀ c, t.devCounter c = satAdd (s.devCounter c) (n c)

/-- From `s` to `t` the events named by `o` occur once, the others not (R141). -/
def State.occurred (s t : State) (o : Event → Bool) : Prop :=
  ∀ e, t.event e = if o e then (s.event e).occur else s.event e

/-- From `s` to `t` the group states change as a journaled write of domain `d` to `a` changes them (Table 3.2, R56). -/
def State.tracked (s t : State) (d : Dom) (a : Addr) : Prop :=
  ∀ g : Fin 16, t.groupStates[g] =
    if s.groupOf d a = some g then (if a.toNat = s.groupClosing g then .complete else .opened) else s.groupStates[g]

/-- From `s` to `t` the groups of domain `d` go to CLOSED (R64). -/
def State.groupsClosed (s t : State) (d : Dom) : Prop :=
  ∀ g : Fin 16, t.groupStates[g] = if s.groupDom g = d then .closed else s.groupStates[g]

/-- A write is placed as a new entry at the end of domain `d`'s open bank and answered OK (R3, R10); `held` is left open. -/
structure State.Placed (s t : State) (d : Dom) (a : Addr) (be : Lanes) (data : Word) : Prop where
  bank : (t.dom d).openBank =
    (s.dom d).openBank ++ [{ addr := a, data := laneMerge 0 data be, mask := be, tag := s.groupOf d a }]
  slot : t.free + 1 = s.free
  counters : s.counted t d fun c => if c = .journaled then 1 else 0
  groups : s.tracked t d a
  answer : t.wp = { busy := false, answer := some { err := false, rdata := 0 } }
  domain : { t.dom d with openBank := (s.dom d).openBank, counters := (s.dom d).counters } = s.dom d
  others : t.dom (otherDom d) = s.dom (otherDom d)
  frame : { t with
    dom0 := s.dom0, dom1 := s.dom1, free := s.free, held := s.held, groupStates := s.groupStates, wp := s.wp } = s

/-- The writer's access becomes the held write `h` (R16): the port is busy, HOLDS of its domain rises, nothing else changes. -/
structure State.Held (s t : State) (h : HeldWrite) : Prop where
  record : t.held = some h
  port : t.wp = { busy := true, answer := none }
  counters : s.counted t h.dom fun c => if c = .holds then 1 else 0
  domain : { t.dom h.dom with counters := (s.dom h.dom).counters } = s.dom h.dom
  others : t.dom (otherDom h.dom) = s.dom (otherDom h.dom)
  frame : { t with dom0 := s.dom0, dom1 := s.dom1, held := s.held, wp := s.wp } = s

/-- The order of the requesters (R108). -/
def Requester.rank : Requester → Nat
  | .cp => 0
  | .drain => 1
  | .wp => 2

/-- A requester whose request is presented is guarded (R109). -/
def Arbiter.guarded (a : Arbiter) (r : Requester) : Prop :=
  (a.request r).isSome = true ∧ 8 ≤ a.wait r

/-- The choice of R108 falls on requester `w`. -/
def Arbiter.favours (a : Arbiter) (w : Requester) : Prop :=
  (a.guarded w ∧ ∀ r : Requester, r.rank < w.rank → ¬a.guarded r) ∨
    ((∀ r, ¬a.guarded r) ∧ ∀ r : Requester, r.rank < w.rank → a.request r = none)

/-- The link takes frames: RESET_N is high, and SL_SEL_N has been high since its release (R149). -/
def State.listens (s : State) : Prop := s.resetN = true ∧ s.link.selN = true

/-- The link after a complete frame `f` with command byte `code` and tag `tag`, answered `r`: the whole response of before has been
presented (R149, R150, R153). -/
def Link.answered (k : Link) (f : Frame) (code tag : Byte) (r : Reply) : Link where
  state := .deselected
  selN := true
  bitCount := 64
  kept := frameBits f
  presented := frameBits k.response.frame
  slDo := none
  response := { result := r.result, flags := r.flags, command := code, data := r.data, tag := tag }

/-- The state `u` with the link as it stands after the frame of a command of code `code`, answered `r`. -/
def State.answering (u : State) (code arg : Byte) (data : Word) (tag : Byte) (r : Reply) : State :=
  { u with link := u.link.answered (commandFrame code arg data tag) code tag r }

/-- The rows that do nothing while RESET_N is low: all but its release and a power-up (R113, R130, R160, R173). -/
def ignoredInReset : Instr → Bool
  | .resetNRelease _ => false
  | .powerUp _ _ => false
  | _ => true

/-- The rows that are a frame on the setup link. -/
def frameRow : Instr → Bool
  | .tornFrame _ => true
  | .frameCheckFail _ => true
  | .unknownCommand _ _ _ _ => true
  | .nop _ _ _ => true
  | .readParam _ _ _ => true
  | .writeParam _ _ _ => true
  | .writeTimerRun _ _ _ => true
  | .writeEventEnable _ _ => true
  | .readState _ _ _ => true
  | .readEvent _ _ _ => true
  | .ackEvent _ _ _ => true
  | .readCounter _ _ _ => true
  | .clearCounters _ _ _ => true
  | .readHistory _ _ _ => true
  | .readResetRecord _ _ _ => true
  | .start _ _ _ => true
  | .stop _ _ _ => true
  | .close _ _ _ => true
  | .discard _ _ _ => true
  | .restart _ _ _ => true
  | _ => false

/-- Window `w` is a window of domain `d` (R121). -/
def State.windowOf (s : State) (d : Dom) (w : Fin 8) : Prop :=
  s.windows[w].enable = true ∧ s.windows[w].dom = d

/-- The base of window `w` is a multiple of its size (R121, check 2). -/
def State.alignedWindow (s : State) (w : Fin 8) : Prop :=
  s.windows[w].base.toNat % 2 ^ s.windows[w].k.toNat = 0

/-- Window `w` has no word in common with another enabled window (R121, check 2). -/
def State.apartWindow (s : State) (w : Fin 8) : Prop :=
  ∀ v : Fin 8, v ≠ w → s.windows[v].enable = true →
    s.windows[v].base.toNat + 2 ^ s.windows[v].k.toNat ≤ s.windows[w].base.toNat ∨
      s.windows[w].base.toNat + 2 ^ s.windows[w].k.toNat ≤ s.windows[v].base.toNat

/-- Group `g` is a group of domain `d`: it and its window are enabled, and the window is of domain `d` (R121, R52). -/
def State.groupInDom (s : State) (d : Dom) (g : Fin 16) : Prop :=
  s.groups[g].enable = true ∧ s.windowOf d s.groups[g].window

/-- Group `g` ends within its window (R121, check 3). -/
def State.insideGroup (s : State) (g : Fin 16) : Prop :=
  s.groups[g].offset.toNat + s.groups[g].length.toNat ≤ 2 ^ s.windows[s.groups[g].window].k.toNat

/-- Group `g` has no word in common with another group of domain `d` (R121, check 3): the last word of one comes before the first of
the other. -/
def State.apartGroup (s : State) (d : Dom) (g : Fin 16) : Prop :=
  ∀ h : Fin 16, h ≠ g → s.groupInDom d h → s.groupClosing h < s.groupFirst g ∨ s.groupClosing g < s.groupFirst h

/-- None of the part's own instants is due, but those that `h` holds back: the conditions of R17, R39, R96, R102, R107, R125 and
R128. -/
structure State.NothingDue (s : State) (h : Hold) : Prop where
  place : ∀ w, s.held = some w → w.reason = .space →
    (s.dom w.dom).params.quota.toNat ≤ (s.dom w.dom).openBank.length ∨ s.free = 0
  drainEnd : ∀ e rest, s.queue = e :: rest → e.phase = .draining → (s.dom e.dom).drainBank ≠ []
  commit : ∀ d b g l, (s.dom d).sched = .settle b g l → h.commit ≠ some d →
    ((∃ i : Fin 16, s.groupDom i = d ∧ s.groupState i = .opened) ∧ b.groupExpired = false) ∨
      ((s.dom d).sampleN = false ∧ b.sampleExpired = false)
  release : ∀ w, s.held = some w → w.reason = .flush → (s.dom w.dom).state ≠ .off
  begin : ∀ e rest, s.queue = e :: rest → s.engine = .idle → e.phase = .queued → e.fence = true
  restart : s.device = .restarting → s.queue ≠ []
  grant : h.grant = false → s.arb.mp = none → s.arb.granted = none → ∀ w, s.arb.request w = none

/-- One tick off every running limit of a domain (R26, R28). -/
def Domain.oneTickOff (x : Domain) : Domain :=
  { x with
    timer := x.timer.map (· - 1)
    sched := match x.sched with
      | .settle b g l => .settle b (g.map (· - 1)) (l.map (· - 1))
      | .idle => .idle
      | .drainWait b => .drainWait b }

/-- The end of a tick before any limit has expired: the tick is numbered, the next one has the length TICK_DIV has, one tick is off
every running limit, and the periods of X_DONE and MP_CANCEL are over (R25, R26, R170, R172). -/
def State.oneTickOff (s : State) : State :=
  { s with
    time := { tick := s.time.tick + 1, clk := 0, tickLen := s.tickDiv }
    dom0 := s.dom0.oneTickOff
    dom1 := s.dom1.oneTickOff
    held := s.held.map fun h => { h with left := h.left - 1 }
    wp := { s.wp with answer := none }
    cp := { s.cp with answer := none }
    arb := { s.arb with cancel := false, mp := s.arb.mp.map fun o => { o with left := o.left - 1 } } }

/-- The count of no limit but MEM_TIMEOUT's has ended. -/
def State.noLimitEnds (s : State) : Prop :=
  (∀ d, (s.dom d).timer ≠ some 0) ∧
    (∀ d b g l, (s.dom d).sched = .settle b g l → g ≠ some 0 ∧ l ≠ some 0) ∧ ∀ h, s.held = some h → h.left ≠ 0

/-- What the part's own instants never change: the level of RESET_N, the parameters of the device and the tables, the time
base, the reset record's device part, the link, the queue of commands. -/
structure Still where
  resetN      : Bool
  windows     : Vector Window 8
  groups      : Vector Group 16
  eventEnable : BitVec 18
  tickDiv     : BitVec 10
  memTimeout  : Byte
  params0     : DomParams
  params1     : DomParams
  time        : TimeBase
  recValid    : Bool
  recHeldLost : Bool
  link        : Link
  pending     : List Instr
  deriving DecidableEq, Repr

/-- What stands still in a state. -/
def State.still (s : State) : Still where
  resetN := s.resetN
  windows := s.windows
  groups := s.groups
  eventEnable := s.eventEnable
  tickDiv := s.tickDiv
  memTimeout := s.memTimeout
  params0 := s.dom0.params
  params1 := s.dom1.params
  time := s.time
  recValid := s.recValid
  recHeldLost := s.recHeldLost
  link := s.link
  pending := s.pending

/-- The link's answer to the last complete frame. -/
def State.response (s : State) : Response := s.link.response

end Sys2Proof.Machine
end

