-- ==== Sys2Proof/Certificates/Slice0/Obligations.lean ====
section
/-! DEFINITION. The statements for the provers. `q` is the state in which a command finds the part: the state given, with the instants
that were already due taken (log 1), but for the commit point that an arriving request may precede, and the grant that an
arriving access may precede (log 1, log 3). A clause `{ t with … := s.… } = s` says that nothing else differs from `s`. -/

open Sys2Proof Sys2Proof.Machine

/-! ### The step -/

/-- A step runs the command at the front of the queue on the state with the queue's rest. -/
def Obligations.StepRunsTheFrontCommand : Prop :=
  ∀ (s : State) (c : Instr) (rest : List Instr), s.pending = c :: rest →
    step s = exec c { s with pending := rest }

/-- R25, R26, R28 (the idle step is DESIGN CHOICE, log 5; the tick number DEDUCED, log 6; the grant and the instants due are taken
first, log 1, log 3): with no command waiting one CLK period passes; the last period of a tick ends it, and the next tick has the
length TICK_DIV has then. Where nothing is due before, the period changes nothing but the time and the answers that end with it,
and the end of a tick takes one tick off every running limit; where no count has ended that is all, and where one has it expires
as its row does, and what that makes due is taken. -/
def Obligations.IdleStepPassesOneClkPeriod : Prop :=
  ∀ s : State, s.pending = [] →
    (s.resetN = false → step s = .next s) ∧
    (∃ t, step s = .next t ∧
      t.time =
        if s.resetN = false then s.time
        else if s.time.clk + 1 < s.time.tickLen.toNat then { s.time with clk := s.time.clk + 1 }
        else { tick := s.time.tick + 1, clk := 0, tickLen := s.tickDiv }) ∧
    ∀ u : State, s.resetN = true → s.NothingDue {} → s.arb.granted = none → (∀ o, s.arb.mp = some o → o.left ≠ 0) →
      s.ParamsInOrder → s.oneTickOff = u →
      (s.time.clk + 1 < s.time.tickLen.toNat → step s = .next { s with
        time := { s.time with clk := s.time.clk + 1 }
        wp := { s.wp with answer := none }
        cp := { s.cp with answer := none }
        arb := { s.arb with cancel := false } }) ∧
      (s.time.tickLen.toNat ≤ s.time.clk + 1 →
        (u.noLimitEnds → step s = .next u) ∧
        (∀ d, (u.dom d).timer = some 0 → (u.updDom d fun x => { x with timer := none }).noLimitEnds →
          ∃ v, exec (.epochTimerExpiry d) u = .next v ∧ step s = .next v.settle) ∧
        (∀ d b l, (u.dom d).sched = .settle b (some 0) l →
          (u.updDom d fun x => { x with sched := .settle b none l }).noLimitEnds →
          ∃ v, exec (.groupHoldExpiry d) u = .next v ∧ step s = .next v.settle) ∧
        (∀ d b g, (u.dom d).sched = .settle b g (some 0) →
          (u.updDom d fun x => { x with sched := .settle b g none }).noLimitEnds →
          ∃ v, exec (.sampleHoldExpiry d) u = .next v ∧ step s = .next v.settle) ∧
        (∀ h, u.held = some h → h.left = 0 → State.noLimitEnds { u with held := none } →
          ∃ v, exec .writeHoldExpiry u = .next v ∧ step s = .next v.settle))

/-- R18, R26 (on the idle step, log 5; first of the limits that end there, log 4): a held write with at most one tick left is
answered ERR at the end of the tick, whatever is presented or outstanding on the memory port, if nothing was due before. -/
def Obligations.HeldWriteExpiresAtItsTickEnd : Prop :=
  ∀ (s : State) (h : HeldWrite), s.StatesInOrder → s.memTimeout ≠ 0 → s.pending = [] → s.resetN = true →
    s.NothingDue {} → (∀ o, s.arb.mp = some o → o.left ≠ 0) →
    s.time.tickLen.toNat ≤ s.time.clk + 1 → s.held = some h → h.left ≤ 1 →
    ∃ t, step s = .next t ∧ t.held = none ∧ t.wp = { busy := false, answer := some { err := true, rdata := 0 } } ∧
      t.counter h.dom .writeFails = satAdd (s.counter h.dom .writeFails) 1

/-! ### The part's own instants -/

/-- R17, R39, R58, R68 to R71, R96, R102, R107, R125, R128. Once the part's own instants have been taken, none is due but those held
back, and no parameter, level, time, link state or queue has changed (log 1); and the row of an instant leaves the state as it
is where the instant's conditions do not hold (log 2): no room for the held write; an entry left in the draining bank; an OPEN
group whose limit has not expired, or a low SAMPLE_N whose limit has not; a domain in use; a fence; an element in the queue; a
port that is not free, or no request. A write finds the commit point of its domain held back only if it raises a FILL request
then (log 1). -/
def Obligations.InstantsOccurWhenDue : Prop :=
  ∀ s : State,
    (∀ h : Hold, (s.resetN = true → (s.settleHolding h).NothingDue h) ∧ (s.settleHolding h).still = s.still) ∧
    (∀ d, (∀ b g l, (s.dom d).sched = .settle b g l →
        ((∃ i : Fin 16, s.groupDom i = d ∧ s.groupState i = .opened) ∧ b.groupExpired = false) ∨
          ((s.dom d).sampleN = false ∧ b.sampleExpired = false)) →
      exec (.commitPoint d) s = .next s) ∧
    ((∀ h, s.held = some h → h.reason = .space →
        (s.dom h.dom).params.quota.toNat ≤ (s.dom h.dom).openBank.length ∨ s.free = 0) →
      exec .placeHeldWrite s = .next s) ∧
    ((∀ h, s.held = some h → h.reason = .flush → (s.dom h.dom).state ≠ .off) → exec .heldWriteRelease s = .next s) ∧
    ((∀ e rest, s.queue = e :: rest → s.engine = .idle → e.phase = .queued → e.fence = true) →
      exec .drainBankBegin s = .next s) ∧
    ((∀ e rest, s.queue = e :: rest → e.phase = .draining → (s.dom e.dom).drainBank ≠ []) →
      exec .drainEnd s = .next s) ∧
    ((s.device = .restarting → s.queue ≠ []) → exec .restartCompletion s = .next s) ∧
    ((s.arb.mp.isSome = true ∨ s.arb.granted.isSome = true ∨ ∀ w, s.arb.request w = none) →
      exec .memoryGrant s = .next s) ∧
    ∀ (a : Addr) (be : Lanes), s.settleForWrite a be = s.settleHolding { grant := true } ∨
      ∃ (d : Dom) (q : State), s.classify a = some d ∧ s.settleForWrite a be = q ∧
        q = s.settleHolding { commit := some d, grant := true } ∧ be ≠ 0 ∧ q.journals d ∧
        (∀ e ∈ (q.dom d).openBank, e.addr ≠ a) ∧
        ((q.dom d).params.quota.toNat ≤ (q.dom d).openBank.length ∨ q.free = 0) ∧ (q.dom d).params.policy = .early

/-- R39, R44 to R50, R60, R61, R72, R88, R134: what a commit point of domain `d` does, when the commit condition holds. -/
def Obligations.CommitPointEndsTheEpoch : Prop :=
  ∀ (s : State) (d : Dom) (b : Boundary) (g l : Option Nat) (x : Domain) (kept : Bank) (n : Nat),
    s.resetN = true → s.dom d = x → x.sched = .settle b g l →
    ((∀ i : Fin 16, s.groupDom i = d → s.groupState i ≠ .opened) ∨ b.groupExpired = true) →
    (x.sampleN = true ∨ b.sampleExpired = true) →
    kept = x.openBank.filter (fun e => !(s.openGroups d).any fun i => decide (e.tag = some i)) →
    n = (s.openGroups d).length →
    ∃ t, exec (.commitPoint d) s = .next t ∧
      { t.dom d with state := x.state, timer := x.timer, counters := x.counters } =
        { x with
          openBank := [], drainBank := kept, epoch := x.epoch + 1, commitOut := !x.commitOut, sched := .idle } ∧
      t.free = s.free + (x.openBank.length - kept.length) ∧
      s.groupsClosed t d ∧
      t.serial = s.serial + 1 ∧
      t.history =
        ({ serial := s.serial + 1, dom := d, epoch := x.epoch + 1, causes := b.causes, merged := b.merged, final := b.final,
           empty := kept.isEmpty, sampleOverride := !x.sampleN, abandoned := n, committed := kept.length,
           waitTicks := min (s.time.tick - b.requestTick) 65535,
           drain := if kept.isEmpty then .notNeeded else .pending, lost := 0 } :: s.history).take 16 ∧
      s.counted t d (fun c =>
        if c = .commits then 1 else if c = .abandoned then n else if c = .overrides then one (!x.sampleN) else 0) ∧
      s.occurred t (fun e =>
        decide (e = .dom d .commit) || (decide (e = .dom d .groupAbandoned) && decide (n ≠ 0)) ||
          (decide (e = .dom d .sampleOverride) && !x.sampleN) || (decide (e = .dom d .drained) && kept.isEmpty)) ∧
      t.queue = (if kept.isEmpty then s.queue else s.queue ++
        [{ dom := d, epoch := x.epoch + 1, serial := s.serial + 1, fence := s.cpReads d, phase := .queued,
           committed := kept.length, retired := 0 }]) ∧
      t.cpRead = s.cpRead.map (fun r => if r.path = .resolved d then { r with fenced := true } else r) ∧
      ((t.dom d).state, (t.dom d).timer) =
        (if b.final = false then (x.state, x.timer) else if kept.isEmpty then (.off, none)
         else (.flushing true, x.timer)) ∧
      t.held = s.held.map (fun h =>
        if b.final = true ∧ h.dom = d ∧ h.reason = .space then { h with reason := .flush } else h) ∧
      t.dom (otherDom d) = s.dom (otherDom d) ∧
      { t with
        dom0 := s.dom0, dom1 := s.dom1, free := s.free, held := s.held, groupStates := s.groupStates, queue := s.queue
        cpRead := s.cpRead, history := s.history, serial := s.serial, events := s.events } = s

/-- R17: the placing of a held write, at the moment its domain has room. -/
def Obligations.HeldWriteIsPlacedWhenThereIsRoom : Prop :=
  ∀ (s : State) (h : HeldWrite), s.resetN = true → s.held = some h → h.reason = .space →
    (s.dom h.dom).openBank.length < (s.dom h.dom).params.quota.toNat → 1 ≤ s.free →
    ∃ t, exec .placeHeldWrite s = .next t ∧ t.held = none ∧ s.Placed t h.dom h.addr h.be h.data

/-- R125: the release of a held FLUSH write when its domain is OFF. -/
def Obligations.FlushedWriteIsReleasedToMemory : Prop :=
  ∀ (s : State) (h : HeldWrite), s.resetN = true → s.held = some h → h.reason = .flush → (s.dom h.dom).state = .off →
    exec .heldWriteRelease s = .next { s with
      held := none
      arb := { s.arb with wpReq := some { write := true, addr := h.addr, be := h.be, data := h.data } } }

/-- R96, R98: the begin of the head element's bank, and the write it requests. -/
def Obligations.DrainBankBegins : Prop :=
  ∀ (s : State) (e : Element) (rest : List Element) (first : Entry) (more : Bank),
    s.resetN = true → s.engine = .idle → s.queue = e :: rest → e.phase = .queued → e.fence = false →
    (s.dom e.dom).drainBank = first :: more →
    exec .drainBankBegin s = .next { s with
      queue := { e with phase := .draining } :: rest
      engine := .writing
      arb := { s.arb with
        drainReq := some { write := true, addr := first.addr, be := first.mask, data := laneMerge 0 first.data first.mask }
        drainWait := 0 } }

/-- R102, R103, R37, R124: the drain end, when the last entry of the head element's bank has retired. -/
def Obligations.DrainEndCompletesTheRecord : Prop :=
  ∀ (s : State) (e : Element) (rest : List Element) (x : Domain),
    s.resetN = true → s.queue = e :: rest → e.phase = .draining → s.dom e.dom = x → x.drainBank = [] →
    ∃ t, exec .drainEnd s = .next t ∧
      t.queue = rest ∧
      t.history = s.history.map (fun r => if r.serial = e.serial ∧ r.dom = e.dom ∧ r.drain = .pending then { r with drain := .done } else r) ∧
      s.occurred t (fun v => decide (v = .dom e.dom .drained)) ∧
      t.engine = .idle ∧
      t.dom e.dom = { x with
        sched := match x.sched with
          | .drainWait b => .settle b (some x.params.groupHold.toNat) (some x.params.sampleHold.toNat)
          | .idle => .idle
          | .settle b g l => .settle b g l
        state := if x.state = .flushing true then .off else x.state
        timer := if x.state = .flushing true then none else x.timer } ∧
      t.dom (otherDom e.dom) = s.dom (otherDom e.dom) ∧
      { t with
        dom0 := s.dom0, dom1 := s.dom1, queue := s.queue, history := s.history, engine := s.engine
        events := s.events } = s

/-- R128: the completion of a RESTART. -/
def Obligations.RestartCompletesInOrder : Prop :=
  ∀ s : State, s.resetN = true → s.device = .restarting → s.queue = [] →
    ∃ t, exec .restartCompletion s = .next t ∧
      t.device = .running ∧
      (∀ d, { t.dom d with counters := (s.dom d).counters } = { s.dom d with state := .off, timer := none, epoch := 0 }) ∧
      t.history = [] ∧ t.serial = 0 ∧
      (∀ d c, t.counter d c = 0) ∧ (∀ c, t.devCounter c = 0) ∧
      (∀ e, t.event e = if e = .restartDone then { pending := true, count := 1 } else { pending := false, count := 0 }) ∧
      (t.held, t.arb.wpReq) =
        (match s.held with
         | some h =>
           if h.reason = .restart then (none, some { write := true, addr := h.addr, be := h.be, data := h.data })
           else (s.held, s.arb.wpReq)
         | none => (none, s.arb.wpReq)) ∧
      { t with
        device := s.device, dom0 := s.dom0, dom1 := s.dom1, history := s.history, serial := s.serial, held := s.held
        devCounters := s.devCounters, events := s.events, arb := { t.arb with wpReq := s.arb.wpReq } } = s

/-! ### The upstream ports -/

/-- R114, R115, R119: an access belongs to the lowest-numbered window that is enabled, covers its address (the 2^k words from its
base) and whose domain is in use; with no such window it is pass-through. -/
def Obligations.LowestWindowInUseClassifies : Prop :=
  ∀ (s : State) (a : Addr) (hits : Fin 8 → Prop),
    (∀ w : Fin 8, hits w ↔ s.windows[w].enable = true ∧ s.windows[w].base.toNat ≤ a.toNat ∧
      a.toNat < s.windows[w].base.toNat + 2 ^ s.windows[w].k.toNat ∧ (s.dom s.windows[w].dom).state ≠ .off) →
    (∀ d, s.classify a = some d ↔ ∃ w : Fin 8, hits w ∧ s.windows[w].dom = d ∧ ∀ v : Fin 8, v < w → ¬hits v) ∧
    (s.classify a = none ↔ ∀ w : Fin 8, ¬hits w)

/-- R9: a write to a word that has an entry in the open bank. -/
def Obligations.WriteCoalescesIntoItsEntry : Prop :=
  ∀ (s q : State) (d : Dom) (a : Addr) (be : Lanes) (data : Word), s.settleForWrite a be = q →
    s.resetN = true → s.wp.busy = false → q.classify a = some d → be ≠ 0 → q.journals d →
    (∃ e ∈ (q.dom d).openBank, e.addr = a) →
    ∃ t, exec (.writerPortWrite a be data) s = .next t ∧
      (t.dom d).openBank = (q.dom d).openBank.map (fun e =>
        if e.addr = a then { e with data := laneMerge e.data data be, mask := e.mask ||| be } else e) ∧
      q.counted t d (fun c => if c = .coalesced then 1 else 0) ∧
      q.tracked t d a ∧
      t.wp = { busy := false, answer := some { err := false, rdata := 0 } } ∧
      { t.dom d with openBank := (q.dom d).openBank, counters := (q.dom d).counters } = q.dom d ∧
      t.dom (otherDom d) = q.dom (otherDom d) ∧
      { t with dom0 := q.dom0, dom1 := q.dom1, groupStates := q.groupStates, wp := q.wp } = q

/-- R10, R3: a write to a word without an entry, when a new entry can be had. -/
def Obligations.WriteAppendsANewEntry : Prop :=
  ∀ (s q : State) (d : Dom) (a : Addr) (be : Lanes) (data : Word), s.settleForWrite a be = q →
    s.resetN = true → s.wp.busy = false → q.classify a = some d → be ≠ 0 → q.journals d →
    (∀ e ∈ (q.dom d).openBank, e.addr ≠ a) →
    (q.dom d).openBank.length < (q.dom d).params.quota.toNat → 1 ≤ q.free →
    ∃ t, exec (.writerPortWrite a be data) s = .next t ∧ t.held = q.held ∧ q.Placed t d a be data

/-- R14, R15, R16: a write that needs a new entry when none can be had. -/
def Obligations.FullPolicyDecidesWithoutRoom : Prop :=
  ∀ (s q : State) (d : Dom) (a : Addr) (be : Lanes) (data : Word) (h : HeldWrite), s.settleForWrite a be = q →
    s.resetN = true → s.wp.busy = false → q.classify a = some d → be ≠ 0 → q.journals d →
    (∀ e ∈ (q.dom d).openBank, e.addr ≠ a) →
    ((q.dom d).params.quota.toNat ≤ (q.dom d).openBank.length ∨ q.free = 0) →
    h = { addr := a, be := be, data := data, dom := d, reason := .space, start := q.time.tick,
          left := (q.dom d).params.writeHold.toNat } →
    ((q.dom d).params.policy = .wait → ∃ t, exec (.writerPortWrite a be data) s = .next t ∧ q.Held t h) ∧
    ((q.dom d).params.policy = .early →
      ∃ u, q.Held u h ∧ exec (.writerPortWrite a be data) s = .next (u.request d .fill)) ∧
    ((q.dom d).params.policy = .refuse → ∃ t, exec (.writerPortWrite a be data) s = .next t ∧
      t.wp = { busy := false, answer := some { err := true, rdata := 0 } } ∧
      q.counted t d (fun c => if c = .writeFails then 1 else 0) ∧
      q.occurred t (fun e => decide (e = .dom d .writeFail)) ∧
      { t.dom d with counters := (q.dom d).counters } = q.dom d ∧
      t.dom (otherDom d) = q.dom (otherDom d) ∧
      { t with dom0 := q.dom0, dom1 := q.dom1, wp := q.wp, events := q.events } = q)

/-- R16, R117: a window write that arrives after the final commit point, or while the device is RESTARTING, is held. -/
def Obligations.LateWindowWriteIsHeld : Prop :=
  ∀ (s q : State) (d : Dom) (a : Addr) (be : Lanes) (data : Word) (reason : HeldReason), s.settleForWrite a be = q →
    s.resetN = true → s.wp.busy = false → q.classify a = some d → be ≠ 0 →
    ((q.device = .restarting ∧ reason = .restart) ∨
      (q.device = .running ∧ (q.dom d).state = .flushing true ∧ reason = .flush)) →
    ∃ t, exec (.writerPortWrite a be data) s = .next t ∧
      q.Held t { addr := a, be := be, data := data, dom := d, reason := reason, start := q.time.tick,
                 left := (q.dom d).params.writeHold.toNat }

/-- R8: a window write with no byte enable set is answered OK at once and does nothing else, in every state. -/
def Obligations.WindowWriteOfNoLanesIsAnsweredOk : Prop :=
  ∀ (s q : State) (d : Dom) (a : Addr) (data : Word), s.settleForWrite a 0 = q →
    s.resetN = true → s.wp.busy = false → q.classify a = some d →
    exec (.writerPortWrite a 0 data) s =
      .next { q with wp := { busy := false, answer := some { err := false, rdata := 0 } } }

/-- R80, R116, R170, R172: a pass-through access of either port is presented to the arbiter with its own address, enables and the
data its port captured. -/
def Obligations.PassThroughAccessIsPresented : Prop :=
  ∀ (s q p : State) (a : Addr) (be : Lanes) (data : Word) (r m : Request) (k : ReadRecord), s.settleForAccess = q →
    s.settleForWrite a be = p → s.resetN = true → r = { write := true, addr := a, be := be, data := data } →
    m = { write := false, addr := a, be := be, data := data } →
    k = { addr := a, path := .passThrough, covered := 0, bytes := 0, fenced := false } →
    (p.classify a = none → s.wp.busy = false → exec (.writerPortWrite a be data) s =
      .next { p with wp := { busy := true, answer := none }, arb := { p.arb with wpReq := some r } }) ∧
    (q.classify a = none → s.cp.busy = false → exec (.consumerPortWrite a be data) s =
      .next { q with cp := { busy := true, answer := none }, arb := { q.arb with cpReq := some r } }) ∧
    (q.classify a = none → s.wp.busy = false → exec (.writerPortRead a ⟨be, data⟩) s = .next { q with
      wp := { busy := true, answer := none }, wpRead := some k, arb := { q.arb with wpReq := some m } }) ∧
    (q.classify a = none → s.cp.busy = false → exec (.consumerPortRead a ⟨be, data⟩) s = .next { q with
      cp := { busy := true, answer := none }, cpRead := some k, arb := { q.arb with cpReq := some m } })

/-- R118: a consumer write into a window of a domain in use, whatever its enables and the states. -/
def Obligations.ConsumerWindowWriteIsRefused : Prop :=
  ∀ (s q : State) (d : Dom) (a : Addr) (be : Lanes) (data : Word), s.settleForAccess = q →
    s.resetN = true → s.cp.busy = false → q.classify a = some d →
    ∃ t, exec (.consumerPortWrite a be data) s = .next t ∧
      t.cp = { busy := false, answer := some { err := true, rdata := 0 } } ∧
      q.counted t d (fun c => if c = .cpRefusals then 1 else 0) ∧
      q.occurred t (fun e => decide (e = .dom d .cpRefused)) ∧
      { t.dom d with counters := (q.dom d).counters } = q.dom d ∧
      t.dom (otherDom d) = q.dom (otherDom d) ∧
      { t with dom0 := q.dom0, dom1 := q.dom1, cp := q.cp, events := q.events } = q

/-- R82, R84: a resolved read of the writer port. Covered lanes and their bytes come from the open bank, else from the draining
bank; a read whose lanes are all covered is answered at once, another asks memory for the whole word, with whatever MP_WDATA
carries then (log 23). -/
def Obligations.WriterReadLooksInBothBanks : Prop :=
  ∀ (s q : State) (d : Dom) (a : Addr) (be : Lanes) (data : Word) (o l : Lanes × Word), s.settleForAccess = q →
    s.resetN = true → s.wp.busy = false → q.classify a = some d →
    o = (q.dom d).openBank.lanes a → l = (q.dom d).drainBank.lanes a →
    (l.1 ||| o.1 = 0xF → exec (.writerPortRead a ⟨be, data⟩) s = .next { q with
      wp := { busy := false, answer := some { err := false, rdata := laneMerge (laneMerge 0 l.2 l.1) o.2 o.1 } } }) ∧
    (l.1 ||| o.1 ≠ 0xF → ∃ v, exec (.writerPortRead a ⟨be, data⟩) s = .next { q with
      wp := { busy := true, answer := none }
      wpRead := some { addr := a, path := .resolved d, covered := l.1 ||| o.1
                       bytes := laneMerge (laneMerge 0 l.2 l.1) o.2 o.1, fenced := false }
      arb := { q.arb with wpReq := some { write := false, addr := a, be := 0xF, data := v } } })

/-- R83, R84: a resolved read of the consumer port, from the draining bank alone; where it asks memory, MP_WDATA carries whatever it
does then (log 23). -/
def Obligations.ConsumerReadLooksInTheDrainingBank : Prop :=
  ∀ (s q : State) (d : Dom) (a : Addr) (be : Lanes) (data : Word) (l : Lanes × Word), s.settleForAccess = q →
    s.resetN = true → s.cp.busy = false → q.classify a = some d → l = (q.dom d).drainBank.lanes a →
    (l.1 = 0xF → exec (.consumerPortRead a ⟨be, data⟩) s = .next { q with
      cp := { busy := false, answer := some { err := false, rdata := laneMerge 0 l.2 l.1 } } }) ∧
    (l.1 ≠ 0xF → ∃ v, exec (.consumerPortRead a ⟨be, data⟩) s = .next { q with
      cp := { busy := true, answer := none }
      cpRead := some { addr := a, path := .resolved d, covered := l.1, bytes := laneMerge 0 l.2 l.1, fenced := false }
      arb := { q.arb with cpReq := some { write := false, addr := a, be := 0xF, data := v } } })

/-- R171: byte lane `i` of a merged word is the new word's where the lane is in the set, and the old word's elsewhere. -/
def Obligations.MergedLanesComeFromTheirWords : Prop :=
  ∀ (old new : Word) (l : Lanes) (i : Fin 4),
    (laneMerge old new l).extractLsb' (8 * i) 8 =
      if l.getLsbD i = true then new.extractLsb' (8 * i) 8 else old.extractLsb' (8 * i) 8

/-! ### The memory port -/

/-- R107, R108, R109, R110, R111: the grant goes to the requester that R108 favours, and its access is issued with MEM_TIMEOUT started;
in the CLK period of MP_CANCEL the grant is made and not yet issued. While an access is outstanding or a grant waits to be
issued, and with no request presented, there is no grant. -/
def Obligations.GrantGoesToTheFavouredRequester : Prop :=
  ∀ s : State, s.resetN = true →
    (∀ (w : Requester) (r : Request), s.arb.mp = none → s.arb.granted = none → s.arb.favours w → s.arb.request w = some r →
      exec .memoryGrant s = .next { s with arb :=
        { cpReq := if w = .cp then none else s.arb.cpReq
          drainReq := if w = .drain then none else s.arb.drainReq
          wpReq := if w = .wp then none else s.arb.wpReq
          cpWait := if w = .cp then 0 else s.arb.cpWait + one s.arb.cpReq.isSome
          drainWait := if w = .drain then 0 else s.arb.drainWait + one s.arb.drainReq.isSome
          wpWait := if w = .wp then 0 else s.arb.wpWait + one s.arb.wpReq.isSome
          mp := if s.arb.cancel then none else some { who := w, req := r, left := s.memTimeout.toNat }
          granted := if s.arb.cancel then some { who := w, req := r } else none
          cancel := s.arb.cancel } }) ∧
    ((s.arb.mp.isSome = true ∨ s.arb.granted.isSome = true ∨ ∀ w, s.arb.request w = none) →
      exec .memoryGrant s = .next s)

/-- R99, R101: memory's answer to a drain write retires the entry in position 1, written or lost, and the next write is
requested. The access is the one on MP once a grant that was due has been taken (DESIGN CHOICE, log 3). -/
def Obligations.DrainAnswerRetiresTheEntry : Prop :=
  ∀ (s g : State) (o : Outstanding) (e : Element) (rest : List Element) (first : Entry) (bank : Bank) (err : Bool)
    (data : Word), s.settle = g → g.resetN = true → g.arb.mp = some o → o.who = .drain → g.queue = e :: rest →
    (g.dom e.dom).drainBank = first :: bank →
    ∃ t, exec (.memoryAnswer err data) s = .next t ∧
      t.queue = { e with retired := e.retired + 1 } :: rest ∧
      t.free = g.free + 1 ∧
      { t.dom e.dom with counters := (g.dom e.dom).counters } = { g.dom e.dom with drainBank := bank } ∧
      t.arb = { g.arb with
        mp := none
        drainReq := bank.head?.map fun n => { write := true, addr := n.addr, be := n.mask, data := laneMerge 0 n.data n.mask }
        drainWait := 0 } ∧
      g.counted t e.dom (fun c => if c = .lostEntries then one err else 0) ∧
      t.history = g.history.map (fun r => if err = true ∧ r.serial = e.serial ∧ r.dom = e.dom ∧ r.drain = .pending then { r with lost := r.lost + 1 } else r) ∧
      g.occurred t (fun v => err && decide (v = .dom e.dom .memError)) ∧
      t.dom (otherDom e.dom) = g.dom (otherDom e.dom) ∧
      { t with
        dom0 := g.dom0, dom1 := g.dom1, queue := g.queue, free := g.free, arb := g.arb, history := g.history
        events := g.events } = g

/-- R84, R93, R97, R112: memory's answer to a read is relayed: on OK the covered lanes from the record and the others from
memory, on ERR zeros; the fence of a fenced read is cleared either way. The access is the one on MP once a grant that was due has
been taken (DESIGN CHOICE, log 3). -/
def Obligations.ReadAnswerIsMergedAndRelayed : Prop :=
  ∀ (s g : State) (o : Outstanding) (k : ReadRecord) (err : Bool) (data : Word), s.settle = g → g.resetN = true →
    g.arb.mp = some o → o.req.write = false →
    (o.who = .cp → g.cpRead = some k → ∃ t, exec (.memoryAnswer err data) s = .next t ∧
      t.cp = { busy := false, answer := some { err := err, rdata := if err then 0 else laneMerge data k.bytes k.covered } } ∧
      t.cpRead = none ∧
      t.queue = g.queue.map (fun e => if k.fenced = true ∧ k.path = .resolved e.dom then { e with fence := false } else e) ∧
      t.arb = { g.arb with mp := none } ∧
      g.devCounted t (fun c => if c = .passErrors then one err else 0) ∧
      { t with cp := g.cp, cpRead := g.cpRead, queue := g.queue, arb := g.arb, devCounters := g.devCounters } = g) ∧
    (o.who = .wp → g.wpRead = some k → ∃ t, exec (.memoryAnswer err data) s = .next t ∧
      t.wp = { busy := false, answer := some { err := err, rdata := if err then 0 else laneMerge data k.bytes k.covered } } ∧
      t.wpRead = none ∧
      t.arb = { g.arb with mp := none } ∧
      g.devCounted t (fun c => if c = .passErrors then one err else 0) ∧
      { t with wp := g.wp, wpRead := g.wpRead, arb := g.arb, devCounters := g.devCounters } = g)

/-- R112, R116, R171: memory's answer to a pass-through write is relayed with data 0. The access is the one on MP once a
grant that was due has been taken (DESIGN CHOICE, log 3). -/
def Obligations.PassThroughWriteAnswerIsRelayed : Prop :=
  ∀ (s g : State) (o : Outstanding) (err : Bool) (data : Word), s.settle = g → g.resetN = true →
    g.arb.mp = some o → o.req.write = true →
    (o.who = .cp → ∃ t, exec (.memoryAnswer err data) s = .next t ∧
      t.cp = { busy := false, answer := some { err := err, rdata := 0 } } ∧ t.arb = { g.arb with mp := none } ∧
      g.devCounted t (fun c => if c = .passErrors then one err else 0) ∧
      { t with cp := g.cp, arb := g.arb, devCounters := g.devCounters } = g) ∧
    (o.who = .wp → ∃ t, exec (.memoryAnswer err data) s = .next t ∧
      t.wp = { busy := false, answer := some { err := err, rdata := 0 } } ∧ t.arb = { g.arb with mp := none } ∧
      g.devCounted t (fun c => if c = .passErrors then one err else 0) ∧
      { t with wp := g.wp, arb := g.arb, devCounters := g.devCounters } = g)

/-- R111, R172: at MEM_TIMEOUT the owner receives ERR and zeros in place of memory's answer, with MP_CANCEL high, and what is due at
that edge, a grant among it, is taken there; with no access outstanding neither an answer nor the limit does anything. The access
is the one on MP once a grant that was due has been taken (DESIGN CHOICE, log 3). On the idle step (DESIGN CHOICE, log 5) an
expired access is withdrawn at the next edge of CLK, and an access granted in the period of MP_CANCEL is issued at the edge that
ends it. -/
def Obligations.TimeoutWithdrawsTheAccess : Prop :=
  ∀ (s g : State) (err : Bool) (data : Word), s.settle = g → s.resetN = true →
    (g.arb.mp.isSome = true → ∃ t, exec (.memoryAnswer true 0) s = .next t ∧
      exec .memTimeoutExpiry s = .next (State.settle { t with arb := { t.arb with cancel := true } })) ∧
    (g.arb.mp = none → exec .memTimeoutExpiry s = .next g ∧ exec (.memoryAnswer err data) s = .next g) ∧
    (∀ o, s.pending = [] → s.arb.granted = none → s.arb.mp = some o → o.left = 0 →
      ∃ t, step s = .next t ∧ t.mpReq = false ∧ t.mpCancel = true) ∧
    (∀ k, s.pending = [] → s.memTimeout ≠ 0 → s.time.clk + 1 < s.time.tickLen.toNat → s.arb.granted = some k →
      ∃ t, step s = .next t ∧ t.arb.mp = some { who := k.who, req := k.req, left := s.memTimeout.toNat } ∧
        t.arb.granted = none ∧ t.mpCancel = false)

/-! ### Boundary requests, limits and lines -/

/-- R33, R34, R35, R36, R37, R38, R51: a boundary request that reaches the scheduler of domain `d`: it is ignored, creates the
record or merges into it; and a request from another source that arrives together with one that created the record finds the
record still pending, though the commit point is due, and so merges (log 1). -/
def Obligations.RequestIsIgnoredCreatesOrMerges : Prop :=
  ∀ (s : State) (d : Dom) (c : Cause),
    (¬s.journals d → s.request d c = s) ∧
    (s.journals d → (s.dom d).sched = .idle → s.request d c = s.updDom d (fun x =>
      let b : Boundary :=
        { causes := { timer := decide (c = .timer), line := decide (c = .line), fill := decide (c = .fill),
                      link := decide (c = .link), stop := decide (c = .stop) }
          merged := 0, requestTick := s.time.tick, final := decide (c = .stop), groupExpired := false
          sampleExpired := false }
      { x with sched :=
          if x.drainBank = [] ∧ ∀ e ∈ s.queue, e.dom ≠ d then
            .settle b (some x.params.groupHold.toNat) (some x.params.sampleHold.toNat)
          else .drainWait b })) ∧
    (∀ b m : Boundary, s.journals d →
      m = { b with
        causes := { timer := b.causes.timer || decide (c = .timer), line := b.causes.line || decide (c = .line)
                    fill := b.causes.fill || decide (c = .fill), link := b.causes.link || decide (c = .link)
                    stop := b.causes.stop || decide (c = .stop) }
        merged := min (b.merged + 1) 15
        final := b.final || decide (c = .stop) } →
      ((s.dom d).sched = .drainWait b ∨ ∃ g l, (s.dom d).sched = .settle b g l) →
        (s.request d c).dom d = { s.dom d with
          sched := match (s.dom d).sched with
            | .settle _ g l => .settle m g l
            | _ => .drainWait m
          counters := ((s.request d c).dom d).counters } ∧
        s.counted (s.request d c) d (fun k => if k = .merged then 1 else 0) ∧
        s.occurred (s.request d c) (fun e => decide (e = .dom d .merged)) ∧
        (s.request d c).dom (otherDom d) = s.dom (otherDom d) ∧
        { s.request d c with dom0 := s.dom0, dom1 := s.dom1, events := s.events } = s) ∧
    (∀ k : Cause, s.NothingDue {} → s.journals d → (s.dom d).sched = .idle →
      (k = c ∨ (k = .link ∧ c = .stop) ∨ (k = .stop ∧ c = .link)) ∨ (s.request d c).settleForRequest d k = s.request d c)

/-- R28: an expiry of a running epoch timer reloads it with PERIOD_d and raises a TIMER request; a stopped timer does not
expire. -/
def Obligations.TimerExpiryReloadsAndRequests : Prop :=
  ∀ (s q : State) (d : Dom), s.settleForRequest d .timer = q → s.resetN = true →
    (∀ n, (q.dom d).timer = some n → exec (.epochTimerExpiry d) s =
      .next ((q.updDom d fun x => { x with timer := some x.params.period.toNat }).request d .timer)) ∧
    ((q.dom d).timer = none → exec (.epochTimerExpiry d) s = .next q)

/-- R30: a rising edge of EPOCH_INd raises a LINE request under the three conditions and is else ignored; it counts after a low
level only, which the falling level gives. -/
def Obligations.RisingEdgeRequestsALineBoundary : Prop :=
  ∀ (s q u : State) (d : Dom), s.settleForRequest d .line = q → s.resetN = true → u = q.updDom d (fun x => { x with epochIn := true }) →
    ((q.dom d).epochIn = false → q.device = .running → (q.dom d).state = .active → (q.dom d).params.lineEn = true →
      exec (.epochInRisingEdge d) s = .next (u.request d .line)) ∧
    ((q.dom d).epochIn = false →
      ¬(q.device = .running ∧ (q.dom d).state = .active ∧ (q.dom d).params.lineEn = true) →
      exec (.epochInRisingEdge d) s = .next u) ∧
    ((q.dom d).epochIn = true → exec (.epochInRisingEdge d) s = .next q) ∧
    exec (.epochInFallingLevel d) s = .next (s.settle.updDom d fun x => { x with epochIn := false })

/-- R38, R59, R67, R71: the level of SAMPLE_Nd is taken; the expiry of a hold limit that runs sets its flag and stops the limit,
while the other limit runs on. -/
def Obligations.SampleLevelAndHoldExpiriesAreTaken : Prop :=
  ∀ (s q : State) (d : Dom) (b : Boundary) (n : Nat) (g l : Option Nat) (level : Bool), s.settle = q →
    s.resetN = true →
    exec (.sampleNLevelChange d level) s = .next (q.updDom d fun x => { x with sampleN := level }) ∧
    ((q.dom d).sched = .settle b (some n) l → exec (.groupHoldExpiry d) s =
      .next (q.updDom d fun x => { x with sched := .settle { b with groupExpired := true } none l })) ∧
    ((q.dom d).sched = .settle b g (some n) → exec (.sampleHoldExpiry d) s =
      .next (q.updDom d fun x => { x with sched := .settle { b with sampleExpired := true } g none }))

/-- R18: the expiry of the WRITE_HOLD limit, whatever the reason. -/
def Obligations.HoldLimitAnswersErr : Prop :=
  ∀ (s q : State) (h : HeldWrite), s.settle = q → s.resetN = true → q.held = some h →
    ∃ t, exec .writeHoldExpiry s = .next t ∧
      t.held = none ∧
      t.wp = { busy := false, answer := some { err := true, rdata := 0 } } ∧
      q.counted t h.dom (fun c => if c = .writeFails then 1 else 0) ∧
      q.occurred t (fun e => decide (e = .dom h.dom .writeFail)) ∧
      { t.dom h.dom with counters := (q.dom h.dom).counters } = q.dom h.dom ∧
      t.dom (otherDom h.dom) = q.dom (otherDom h.dom) ∧
      { t with dom0 := q.dom0, dom1 := q.dom1, held := q.held, wp := q.wp, events := q.events } = q

/-! ### Reset -/

/-- R106, R131, R173: the assertion of RESET_N writes the reset record and resets every block (the levels taken of the
input lines stand until release, log 12). -/
def Obligations.ResetWritesTheResetRecord : Prop :=
  ∀ (s q : State) (r : Dom → LostRecord), s.settle = q → q.resetN = true →
    (∀ d, r d =
      match q.queue.find? (fun e => decide (e.dom = d)) with
      | none => { openLost := (q.dom d).openBank.length, status := .none, epoch := 0, written := 0, unwritten := 0 }
      | some e =>
        match e.phase with
        | .draining => { openLost := (q.dom d).openBank.length, status := .interrupted, epoch := e.epoch
                         written := e.retired, unwritten := e.committed - e.retired }
        | .queued => { openLost := (q.dom d).openBank.length, status := .queued, epoch := e.epoch, written := 0
                       unwritten := e.committed }) →
    exec .resetNAssertion s = .next { State.reset with
      resetN := false
      dom0 := { Domain.reset with lost := r .d0, sampleN := q.dom0.sampleN, epochIn := q.dom0.epochIn }
      dom1 := { Domain.reset with lost := r .d1, sampleN := q.dom1.sampleN, epochIn := q.dom1.epochIn }
      arb := { State.reset.arb with cancel := true }
      recValid := true
      recHeldLost := q.held.isSome
      link := { State.reset.link with selN := q.link.selN }
      pending := q.pending }

/-- R130, R132, R173: after the release of RESET_N every block holds its reset state and the reset record is kept; power-up does
the same and clears the record. The lines are taken as they stand. That POWER_UP is a row of its own in any state, with the level
of RESET_N as an operand, MP_CANCEL high while that is low, and the commands that wait kept, is DESIGN CHOICE (log 21). -/
def Obligations.ReleaseAndPowerUpGiveTheResetState : Prop :=
  ∀ (s : State) (lines : Lines) (high : Bool),
    (s.resetN = false → exec (.resetNRelease lines) s = .next { State.reset with
      dom0 := { Domain.reset with lost := s.dom0.lost, sampleN := lines.sampleN0, epochIn := lines.epochIn0 }
      dom1 := { Domain.reset with lost := s.dom1.lost, sampleN := lines.sampleN1, epochIn := lines.epochIn1 }
      recValid := s.recValid
      recHeldLost := s.recHeldLost
      link := { State.reset.link with selN := lines.slSelN }
      pending := s.pending }) ∧
    exec (.powerUp high lines) s = .next { State.reset with
      resetN := high
      dom0 := { Domain.reset with sampleN := lines.sampleN0, epochIn := lines.epochIn0 }
      dom1 := { Domain.reset with sampleN := lines.sampleN1, epochIn := lines.epochIn1 }
      arb := { State.reset.arb with cancel := !high }
      link := { State.reset.link with selN := lines.slSelN }
      pending := s.pending }

/-- R23, R25, R42, R66, R77, R94, R106, R113, R114, R119, R130, R132, R133, R147, R149, R153, R163, R168, R173: the values the rules give
for reset (that the first tick has number 0 is DEDUCED, log 6). -/
def Obligations.ResetStateHoldsTheRuledValues : Prop :=
  State.reset.free = 512 ∧ State.reset.held = none ∧ State.reset.device = .running ∧
  (∀ d, (State.reset.dom d).state = .off ∧ (State.reset.dom d).openBank = [] ∧ (State.reset.dom d).drainBank = [] ∧
    (State.reset.dom d).epoch = 0 ∧ (State.reset.dom d).sched = .idle ∧ (State.reset.dom d).timer = none ∧
    (State.reset.dom d).commitOut = false ∧ (∀ c, State.reset.counter d c = 0) ∧
    (State.reset.dom d).lost = { openLost := 0, status := .none, epoch := 0, written := 0, unwritten := 0 }) ∧
  State.reset.queue = [] ∧ State.reset.engine = .idle ∧ State.reset.mpReq = false ∧ State.reset.mpCancel = false ∧
  (∀ r, State.reset.arb.request r = none ∧ State.reset.arb.wait r = 0) ∧
  State.reset.wp = { busy := false, answer := none } ∧ State.reset.cp = { busy := false, answer := none } ∧
  State.reset.time = { tick := 0, clk := 0, tickLen := 100 } ∧ State.reset.link.state = .deselected ∧
  State.reset.slDo = none ∧
  State.reset.wpRead = none ∧ State.reset.cpRead = none ∧ State.reset.history = [] ∧ State.reset.serial = 0 ∧
  (∀ e, State.reset.event e = { pending := false, count := 0 }) ∧ State.reset.irqN = true ∧
  (∀ c, State.reset.devCounter c = 0) ∧ (∀ i, State.reset.groupState i = .closed) ∧
  State.reset.recValid = false ∧ State.reset.recHeldLost = false ∧
  State.reset.response = { result := .none, flags := 0, command := 0, data := 0, tag := 0 } ∧
  State.reset.param .tickDiv = 100 ∧ State.reset.param .memTimeout = 16 ∧ State.reset.param .eventEnable = 0 ∧
  (∀ d, State.reset.param (.setting d .quota) = 256 ∧ State.reset.param (.setting d .policy) = 0 ∧
    State.reset.param (.setting d .writeHold) = 50 ∧ State.reset.param (.setting d .period) = 1000 ∧
    State.reset.param (.setting d .timerRun) = 0 ∧ State.reset.param (.setting d .lineEn) = 0 ∧
    State.reset.param (.setting d .groupHold) = 20 ∧ State.reset.param (.setting d .sampleHold) = 100) ∧
  (∀ w, State.reset.param (.winBase w) = 0 ∧ State.reset.param (.winCtrl w) = 0x20) ∧
  (∀ i, State.reset.param (.grp i) = 0x02000000)

/-- R113, R130, R149, R160, R170, R173: while RESET_N is low no command but its release and a power-up does anything: no access, frame,
line, answer, grant or limit; and SL_DO is not driven. A port with an access outstanding accepts no other (log 7). With SL_SEL_N
low since the release of RESET_N, the rise that ends the next frame row judges no frame (log 8). -/
def Obligations.InputsThatAreNotTakenDoNothing : Prop :=
  (∀ (s : State) (c : Instr), s.resetN = false → ignoredInReset c = true → exec c s = .next s) ∧
  (∀ s : State, s.resetN = false → s.slDo = none) ∧
  (∀ (s : State) (a : Addr) (be : Lanes) (data : Word),
    (s.wp.busy = true →
      exec (.writerPortWrite a be data) s = .next s.settle ∧ exec (.writerPortRead a ⟨be, data⟩) s = .next s.settle) ∧
    (s.cp.busy = true →
      exec (.consumerPortWrite a be data) s = .next s.settle ∧ exec (.consumerPortRead a ⟨be, data⟩) s = .next s.settle)) ∧
  (∀ (s : State) (c : Instr), s.resetN = true → s.link.selN = false → frameRow c = true →
    ∃ h : Hold, exec c s = .next { s.settleHolding h with
      link := { s.link with state := .deselected, selN := true, slDo := none } })

/-! ### The setup link -/

/-- R151, R150: a torn frame. The interface then holds none of its bits; SL_DO has presented a bit of the response for each. -/
def Obligations.TornFrameIsDiscarded : Prop :=
  ∀ (s q : State) (bits : List Bool), s.settle = q → q.listens → bits.length ≠ 64 →
    ∃ t, exec (.tornFrame bits) s = .next t ∧
      q.devCounted t (fun c => if c = .tornFrames then 1 else 0) ∧
      q.occurred t (fun e => decide (e = .linkError)) ∧
      (t.link.kept = [] ∨ t.link.kept = q.link.kept) ∧
      t.link = { q.link with
        state := .deselected
        bitCount := bits.length
        kept := t.link.kept
        presented := (List.range bits.length).map fun i => q.response.frame.getMsbD i
        slDo := none } ∧
      { t with devCounters := q.devCounters, events := q.events, link := q.link } = q

/-- R152: a complete frame that fails its check. -/
def Obligations.FailedCheckIsAnsweredCheckFail : Prop :=
  ∀ (s q : State) (f : Frame), s.settle = q → q.listens → frameByte f 7 ≠ crc8 (f.extractLsb' 8 56) →
    ∃ t, exec (.frameCheckFail f) s = .next t ∧
      q.devCounted t (fun c => if c = .checkFails then 1 else 0) ∧
      q.occurred t (fun e => decide (e = .linkError)) ∧
      t.link = q.link.answered f (frameByte f 0) (frameByte f 6) { result := .checkFail, flags := 0, data := 0 } ∧
      { t with devCounters := q.devCounters, events := q.events, link := q.link } = q

/-- R149, R152, R153, Table 10.6: the bits of a frame are sent most significant bit of byte 0 first; frames pass the check with their
check byte, and each byte carries its field. A frame passes the check exactly when it is a multiple of x^8 + x^2 + x + 1, its first
bit sent the highest power; the manual's two examples; the result codes. -/
def Obligations.FramesCarryTheirFieldsAndPassTheCheck : Prop :=
  (∀ (f : Frame) (i : Fin 8) (j : Fin 8), (frameBits f)[8 * i.val + j.val]? = some ((frameByte f i).getMsbD j)) ∧
  (∀ (r : Response), frameSound r.frame = true ∧ frameByte r.frame 0 = r.flags ++ r.result.code ∧
    frameByte r.frame 1 = r.command ∧ frameData r.frame = r.data ∧ frameByte r.frame 6 = r.tag) ∧
  (∀ (code arg tag : Byte) (data : Word), frameSound (commandFrame code arg data tag) = true ∧
    frameByte (commandFrame code arg data tag) 0 = code ∧ frameByte (commandFrame code arg data tag) 1 = arg ∧
    frameData (commandFrame code arg data tag) = data ∧ frameByte (commandFrame code arg data tag) 6 = tag) ∧
  (∀ f : Frame, frameSound f = true ↔
    ∃ m : Frame, m.toNat < 2 ^ 56 ∧ f = m <<< 8 ^^^ m <<< 2 ^^^ m <<< 1 ^^^ m) ∧
  crc8 1 = 0x07 ∧ crc8 0 = 0x00 ∧
  Result.ok.code = 0 ∧ Result.none.code = 1 ∧ Result.checkFail.code = 2 ∧ Result.unknown.code = 3 ∧
  Result.badArgument.code = 4 ∧ Result.locked.code = 5 ∧ Result.state.code = 6 ∧ Result.stale.code = 7 ∧
  Result.invalidTable.code = 8 ∧ Result.restarting.code = 9

/-- R154, tests 1 to 4: an unknown code, the commands that a RESTARTING device does not execute, and a domain argument out of
range; nothing but the link changes. That a WRITE_PARAM which R166 calls LOCKED just before the completion of a RESTART is answered
RESTARTING is DESIGN CHOICE (log 24). -/
def Obligations.RefusedCommandsChangeOnlyTheLink : Prop :=
  ∀ (s q : State) (arg tag : Byte) (data : Word) (busy bad : Reply), s.settle = q → q.listens →
    busy = { result := .restarting, flags := 0, data := 0 } → bad = { result := .badArgument, flags := 0, data := 0 } →
    (∀ code, (∀ c : Command, c.code ≠ code) → exec (.unknownCommand code arg data tag) s =
      .next (q.answering code arg data tag { result := .unknown, flags := 0, data := 0 })) ∧
    (q.device = .restarting →
      exec (.restart arg data tag) s = .next (q.answering 0x3A arg data tag { result := .state, flags := 0, data := 0 }) ∧
      exec (.writeParam arg data tag) s = .next (q.answering 0x21 arg data tag busy) ∧
      (∀ d, exec (.writeTimerRun d data tag) s =
        .next (q.answering 0x21 (Param.setting d .timerRun).num data tag busy)) ∧
      exec (.writeEventEnable data tag) s = .next (q.answering 0x21 0x0A data tag busy) ∧
      exec (.ackEvent arg data tag) s = .next (q.answering 0x22 arg data tag busy) ∧
      exec (.clearCounters arg data tag) s = .next (q.answering 0x23 arg data tag busy) ∧
      exec (.start arg data tag) s = .next (q.answering 0x31 arg data tag busy) ∧
      exec (.discard arg data tag) s = .next (q.answering 0x34 arg data tag busy)) ∧
    (∀ p, s.settleForFrame arg .stop = p → p.device = .restarting →
      exec (.stop arg data tag) s = .next (p.answering 0x32 arg data tag busy)) ∧
    (∀ p, s.settleForFrame arg .link = p → p.device = .restarting →
      exec (.close arg data tag) s = .next (p.answering 0x33 arg data tag busy)) ∧
    (q.device = .running → 2 ≤ arg.toNat →
      exec (.start arg data tag) s = .next (q.answering 0x31 arg data tag bad) ∧
      exec (.stop arg data tag) s = .next (q.answering 0x32 arg data tag bad) ∧
      exec (.close arg data tag) s = .next (q.answering 0x33 arg data tag bad) ∧
      exec (.discard arg data tag) s = .next (q.answering 0x34 arg data tag bad)) ∧
    (q.device = .running → 4 ≤ arg.toNat →
      exec (.clearCounters arg data tag) s = .next (q.answering 0x23 arg data tag bad))

/-- R155, R159, section 10.4: NOP and the reading commands execute in both device states and change nothing but the link. -/
def Obligations.ReadingCommandsChangeOnlyTheLink : Prop :=
  ∀ (s q : State) (arg tag : Byte) (data : Word), s.settle = q → q.listens →
    exec (.nop arg data tag) s = .next (q.answering 0x00 arg data tag { result := .ok, flags := 0, data := 0 }) ∧
    exec (.readParam arg data tag) s = .next (q.answering 0x11 arg data tag (q.paramReply arg)) ∧
    exec (.readState arg data tag) s = .next (q.answering 0x12 arg data tag (q.stateReply arg)) ∧
    exec (.readCounter arg data tag) s = .next (q.answering 0x14 arg data tag (q.counterReply arg)) ∧
    exec (.readHistory arg data tag) s = .next (q.answering 0x15 arg data tag (q.historyReply arg)) ∧
    exec (.readResetRecord arg data tag) s = .next (q.answering 0x16 arg data tag (q.resetRecordReply arg))

/-- R155, R163, R169, R139, R132, Table 10.3: which argument names what, and BAD_ARGUMENT for every other one. -/
def Obligations.ReadArgumentsNameWhatIsRead : Prop :=
  ∀ (s : State) (arg : Byte) (bad : Reply), bad = { result := .badArgument, flags := 0, data := 0 } →
    (∀ p : Param, s.paramReply p.num = { result := .ok, flags := 0, data := s.param p }) ∧
    ((∀ p : Param, p.num ≠ arg) → s.paramReply arg = bad) ∧
    s.stateReply 0x00 = { result := .ok, flags := 0, data := s.dom0.word0 } ∧
    s.stateReply 0x10 = { result := .ok, flags := 0, data := s.dom0.word1 } ∧
    s.stateReply 0x01 = { result := .ok, flags := 0, data := s.dom1.word0 } ∧
    s.stateReply 0x11 = { result := .ok, flags := 0, data := s.dom1.word1 } ∧
    s.stateReply 0x02 = { result := .ok, flags := 0, data := s.deviceWord0 } ∧
    s.stateReply 0x12 = { result := .ok, flags := 0, data := s.deviceWord1 } ∧
    (arg ∉ [0x00, 0x10, 0x01, 0x11, 0x02, 0x12] → s.stateReply arg = bad) ∧
    (∀ d c, s.counterReply (BitVec.ofNat 8 (16 * (DomCounter.idx c).val + (if d = .d0 then 0 else 1))) =
      { result := .ok, flags := 0, data := (s.counter d c).setWidth 32 }) ∧
    (∀ c, s.counterReply (BitVec.ofNat 8 (16 * (DevCounter.idx c).val + 2)) =
      { result := .ok, flags := 0, data := (s.devCounter c).setWidth 32 }) ∧
    (2 < argLow arg ∨ (argLow arg < 2 ∧ 10 < argHigh arg) ∨ (argLow arg = 2 ∧ 2 < argHigh arg) →
      s.counterReply arg = bad) ∧
    (∀ (w : Fin 4) (r : HistoryRecord), argHigh arg = w.val → s.history[argLow arg]? = some r →
      s.historyReply arg = { result := .ok, flags := r.flags, data := r.word w }) ∧
    (argHigh arg < 4 → s.history[argLow arg]? = none → s.historyReply arg = { result := .ok, flags := 0, data := 0 }) ∧
    (3 < argHigh arg → s.historyReply arg = bad) ∧
    s.resetRecordReply 0x00 = { result := .ok, flags := 0, data := s.dom0.lost.word0 } ∧
    s.resetRecordReply 0x10 = { result := .ok, flags := 0, data := s.dom0.lost.word1 } ∧
    s.resetRecordReply 0x01 = { result := .ok, flags := 0, data := s.dom1.lost.word0 } ∧
    s.resetRecordReply 0x11 = { result := .ok, flags := 0, data := s.dom1.lost.word1 } ∧
    s.resetRecordReply 0x02 = { result := .ok, flags := 0, data := s.recordWord } ∧
    (arg ∉ [0x00, 0x10, 0x01, 0x11, 0x02] → s.resetRecordReply arg = bad)

/-- Tables 10.7 and 10.8, R7, R43, R65, R76, R104, R161: the bits of the words that the reading commands return. -/
def Obligations.ReadWordsFollowTheirTables : Prop :=
  (∀ x : Domain,
    x.word0.extractLsb' 0 10 = BitVec.ofNat 10 x.openBank.length ∧
    x.word0.extractLsb' 10 10 = BitVec.ofNat 10 x.drainBank.length ∧
    x.word0.getLsbD 20 = x.sampleN ∧ x.word0.getLsbD 21 = x.commitOut ∧ x.word0.extractLsb' 22 10 = 0 ∧
    x.word1.extractLsb' 0 2 = (match x.state with | .off => 0 | .active => 1 | .flushing _ => 2) ∧
    x.word1.extractLsb' 2 2 = (match x.sched with | .idle => 0 | .drainWait _ => 1 | .settle _ _ _ => 2) ∧
    x.word1.extractLsb' 16 16 = x.epoch ∧
    (x.sched = .idle → x.word1.extractLsb' 4 12 = 0) ∧
    (∀ b, (x.sched = .drainWait b ∨ ∃ g l, x.sched = .settle b g l) →
      x.word1.getLsbD 4 = b.causes.timer ∧ x.word1.getLsbD 5 = b.causes.line ∧ x.word1.getLsbD 6 = b.causes.fill ∧
      x.word1.getLsbD 7 = b.causes.link ∧ x.word1.getLsbD 8 = b.causes.stop ∧
      x.word1.extractLsb' 9 4 = BitVec.ofNat 4 b.merged ∧ x.word1.getLsbD 13 = b.final ∧
      x.word1.getLsbD 14 = b.groupExpired ∧ x.word1.getLsbD 15 = b.sampleExpired)) ∧
  (∀ s : State,
    s.deviceWord0.extractLsb' 0 10 = BitVec.ofNat 10 s.free ∧
    s.deviceWord0.getLsbD 10 = s.held.isSome ∧
    s.deviceWord0.getLsbD 11 = s.held.any (fun h => decide (h.dom = .d1)) ∧
    s.deviceWord0.extractLsb' 12 2 =
      (match s.held with
       | none => 0
       | some h => match h.reason with | .space => 0 | .flush => 1 | .restart => 2) ∧
    s.deviceWord0.getLsbD 14 = decide (s.device = .restarting) ∧
    s.deviceWord0.extractLsb' 15 2 = BitVec.ofNat 2 s.queue.length ∧
    s.deviceWord0.getLsbD 17 = s.queue[0]?.any (fun e => decide (e.dom = .d1)) ∧
    s.deviceWord0.getLsbD 18 = s.queue[1]?.any (fun e => decide (e.dom = .d1)) ∧
    s.deviceWord0.getLsbD 19 = s.queue[0]?.any (fun e => e.fence) ∧
    s.deviceWord0.getLsbD 20 = s.queue[0]?.any (fun e => decide (e.phase = .draining)) ∧
    s.deviceWord0.getLsbD 21 = s.queue[1]?.any (fun e => e.fence) ∧
    s.deviceWord0.getLsbD 22 = s.queue[1]?.any (fun e => decide (e.phase = .draining)) ∧
    s.deviceWord0.getLsbD 23 = decide (s.engine = .writing) ∧ s.deviceWord0.extractLsb' 24 8 = 0 ∧
    (∀ i : Fin 16, s.deviceWord1.extractLsb' (2 * i) 2 =
      match s.groupState i with | .closed => 0 | .opened => 1 | .complete => 2) ∧
    s.recordWord.getLsbD 0 = s.recValid ∧ s.recordWord.getLsbD 1 = s.recHeldLost ∧ s.recordWord.extractLsb' 2 30 = 0) ∧
  (∀ r : HistoryRecord,
    (r.word 0).extractLsb' 0 16 = r.epoch ∧ (r.word 0).extractLsb' 16 16 = r.serial ∧
    (∀ w : Fin 4, w ≠ 0 → (r.word w).extractLsb' 24 8 = r.serial.extractLsb' 0 8) ∧
    (r.word 1).getLsbD 0 = r.causes.timer ∧ (r.word 1).getLsbD 1 = r.causes.line ∧
    (r.word 1).getLsbD 2 = r.causes.fill ∧ (r.word 1).getLsbD 3 = r.causes.link ∧ (r.word 1).getLsbD 4 = r.causes.stop ∧
    (r.word 1).extractLsb' 5 4 = BitVec.ofNat 4 r.merged ∧ (r.word 1).getLsbD 9 = r.final ∧
    (r.word 1).getLsbD 10 = r.empty ∧ (r.word 1).getLsbD 11 = r.sampleOverride ∧
    (r.word 1).extractLsb' 12 5 = BitVec.ofNat 5 r.abandoned ∧
    (r.word 2).extractLsb' 0 10 = BitVec.ofNat 10 r.committed ∧ (r.word 2).extractLsb' 10 10 = BitVec.ofNat 10 r.lost ∧
    (r.word 2).extractLsb' 20 2 = (match r.drain with | .pending => 1 | .done => 2 | .notNeeded => 3) ∧
    (r.word 3).extractLsb' 0 16 = BitVec.ofNat 16 r.waitTicks ∧
    r.flags = 8 + (if r.dom = .d1 then 4 else 0)) ∧
  (∀ r : LostRecord,
    r.word0.extractLsb' 0 16 = r.epoch ∧
    r.word0.extractLsb' 16 2 = (match r.status with | .none => 0 | .interrupted => 1 | .queued => 2) ∧
    r.word0.extractLsb' 18 10 = BitVec.ofNat 10 r.openLost ∧ r.word0.extractLsb' 28 4 = 0 ∧
    r.word1.extractLsb' 0 10 = BitVec.ofNat 10 r.written ∧ r.word1.extractLsb' 10 10 = BitVec.ofNat 10 r.unwritten ∧
    r.word1.extractLsb' 20 12 = 0)

/-- R163, R27, R167, Table 11.1: the 54 numbers name the 54 parameters; a value in range reads back as written, a write of one
parameter leaves the value of every other, and it changes nothing else but the epoch timer, and that for TIMER_RUN_d alone. -/
def Obligations.ParameterWritesReadBack : Prop :=
  (∀ p : Param, Param.ofNum? p.num = some p) ∧
  (∀ (n : Byte) (p : Param), Param.ofNum? n = some p → p.num = n) ∧
  (∀ (s t : State) (p r : Param) (v : Word), s.store p v = t →
    (p.inRange v = true → t.param p = v) ∧
    (r ≠ p → t.param r = s.param r) ∧
    (∀ d, { t.dom d with params := (s.dom d).params, timer := (s.dom d).timer } = s.dom d) ∧
    (∀ d, p ≠ .setting d .timerRun → (t.dom d).timer = (s.dom d).timer) ∧
    { t with
      dom0 := s.dom0, dom1 := s.dom1, windows := s.windows, groups := s.groups, tickDiv := s.tickDiv
      memTimeout := s.memTimeout, eventEnable := s.eventEnable } = s)

/-- R164: the identity parameters. -/
def Obligations.IdentityParametersAreFixed : Prop :=
  ∀ (s q : State) (data v : Word) (tag : Byte), s.settle = q → q.listens →
    exec (.readParam 0x00 data tag) s =
      .next (q.answering 0x11 0x00 data tag { result := .ok, flags := 0, data := 0x00000226 }) ∧
    exec (.readParam 0x01 data tag) s =
      .next (q.answering 0x11 0x01 data tag { result := .ok, flags := 0, data := 0x00000003 }) ∧
    exec (.readParam 0x02 data tag) s =
      .next (q.answering 0x11 0x02 data tag { result := .ok, flags := 0, data := 512 }) ∧
    (q.device = .running →
      exec (.writeParam 0x00 v tag) s =
        .next (q.answering 0x21 0x00 v tag { result := .badArgument, flags := 0, data := 0x00000226 }) ∧
      exec (.writeParam 0x01 v tag) s =
        .next (q.answering 0x21 0x01 v tag { result := .badArgument, flags := 0, data := 0x00000003 }) ∧
      exec (.writeParam 0x02 v tag) s =
        .next (q.answering 0x21 0x02 v tag { result := .badArgument, flags := 0, data := 512 }))

/-- R156, R165, R166, R154, Table 11.1: WRITE_PARAM is judged by number, range and lock, and answers the value the parameter holds
after it; the ranges; which domains in use lock which parameter; the LIVE and BUFFERED ones are never LOCKED. -/
def Obligations.WriteParamIsJudgedInOrder : Prop :=
  (∀ (s q t : State) (p : Param) (n : Byte) (v : Word) (tag : Byte) (r : Result), s.settle = q → q.listens →
    q.device = .running →
    r = (if p.inRange v = false then .badArgument else if q.locks p v = true then .locked else .ok) →
    t = (if r = .ok then q.store p v else q) →
    exec (.writeParam p.num v tag) s =
      .next (t.answering 0x21 p.num v tag { result := r, flags := 0, data := t.param p }) ∧
    ((∀ k : Param, k.num ≠ n) → exec (.writeParam n v tag) s =
      .next (q.answering 0x21 n v tag { result := .badArgument, flags := 0, data := 0 }))) ∧
  (∀ (q : State) (v : Word),
    (∀ d, (q.locks (.setting d .quota) v = true ↔ (q.dom d).state ≠ .off) ∧
      (q.locks (.setting d .policy) v = true ↔ (q.dom d).state ≠ .off)) ∧
    (∀ w, (q.locks (.winBase w) v = true ↔ (q.dom q.windows[w].dom).state ≠ .off) ∧
      (q.locks (.winCtrl w) v = true ↔
        (q.dom q.windows[w].dom).state ≠ .off ∨ (q.dom (if v.getLsbD 1 then .d1 else .d0)).state ≠ .off)) ∧
    (∀ g, q.locks (.grp g) v = true ↔ (q.dom (q.groupDom g)).state ≠ .off ∨
      ∃ w : Fin 8, w.val = (v.extractLsb' 4 3).toNat ∧ (q.dom q.windows[w].dom).state ≠ .off) ∧
    q.locks .tickDiv v = false ∧ q.locks .memTimeout v = false ∧ q.locks .eventEnable v = false ∧
    (∀ d, ∀ p ∈ [Setting.writeHold, .period, .timerRun, .lineEn, .groupHold, .sampleHold],
      q.locks (.setting d p) v = false)) ∧
  (∀ v : Word,
    (Param.inRange .tickDiv v = true ↔ 10 ≤ v.toNat ∧ v.toNat ≤ 1000) ∧
    (Param.inRange .memTimeout v = true ↔ 1 ≤ v.toNat ∧ v.toNat ≤ 255) ∧
    (Param.inRange .eventEnable v = true ↔ v.extractLsb' 18 14 = 0) ∧
    (∀ d,
      ((Param.setting d .quota).inRange v = true ↔ 16 ≤ v.toNat ∧ v.toNat ≤ 512) ∧
      ((Param.setting d .policy).inRange v = true ↔ v.toNat ≤ 2) ∧
      ((Param.setting d .period).inRange v = true ↔ 10 ≤ v.toNat ∧ v.toNat ≤ 65535) ∧
      (∀ p ∈ [Setting.timerRun, .lineEn], (Param.setting d p).inRange v = true ↔ v.toNat ≤ 1) ∧
      (∀ p ∈ [Setting.writeHold, .groupHold, .sampleHold],
        (Param.setting d p).inRange v = true ↔ 1 ≤ v.toNat ∧ v.toNat ≤ 255)) ∧
    (∀ w, (Param.winBase w).inRange v = true ↔ v.extractLsb' 24 8 = 0) ∧
    (∀ w, (Param.winCtrl w).inRange v = true ↔
      2 ≤ (v.extractLsb' 4 5).toNat ∧ (v.extractLsb' 4 5).toNat ≤ 16 ∧
        ∀ i : Fin 32, v.getLsbD i = true → i = 0 ∨ i = 1 ∨ (4 ≤ i ∧ i ≤ 8)) ∧
    (∀ g, (Param.grp g).inRange v = true ↔
      2 ≤ (v.extractLsb' 24 5).toNat ∧ (v.extractLsb' 24 5).toNat ≤ 16 ∧
        ∀ i : Fin 32, v.getLsbD i = true → i = 0 ∨ (4 ≤ i ∧ i ≤ 6) ∨ (8 ≤ i ∧ i ≤ 28)) ∧
    (∀ p ∈ [Param.partId, .revision, .poolSize], p.inRange v = false))

/-- R27, R142, R143: the writes of TIMER_RUN_d and of EVENT_ENABLE, and the level of IRQ_N. -/
def Obligations.TimerRunAndEventEnableTakeEffect : Prop :=
  ∀ (s q : State) (d : Dom) (n : Byte) (v : Word) (tag : Byte), s.settle = q → q.listens → q.device = .running →
    n = (Param.setting d .timerRun).num →
    (v = 0 → exec (.writeTimerRun d v tag) s = .next
      ((q.updDom d fun x => { x with params := { x.params with timerRun := false }, timer := none }).answering
        0x21 n v tag { result := .ok, flags := 0, data := 0 })) ∧
    (v = 1 → exec (.writeTimerRun d v tag) s = .next
      ((q.updDom d fun x => { x with
        params := { x.params with timerRun := true }
        timer := if x.params.timerRun = false ∧ x.state ≠ .off then some x.params.period.toNat else x.timer }).answering
        0x21 n v tag { result := .ok, flags := 0, data := 1 })) ∧
    (1 < v.toNat → exec (.writeTimerRun d v tag) s = .next
      (q.answering 0x21 n v tag { result := .badArgument, flags := 0, data := q.param (.setting d .timerRun) })) ∧
    (v.toNat < 2 ^ 18 → exec (.writeEventEnable v tag) s = .next
      (State.answering { q with eventEnable := v.setWidth 18 } 0x21 0x0A v tag { result := .ok, flags := 0, data := v })) ∧
    (2 ^ 18 ≤ v.toNat → exec (.writeEventEnable v tag) s = .next
      (q.answering 0x21 0x0A v tag { result := .badArgument, flags := 0, data := q.eventEnable.setWidth 32 })) ∧
    (q.irqN = false ↔ ∃ i : Fin 18, q.events[i].pending = true ∧ q.eventEnable.getLsbD i = true)

/-- R144: READ_EVENT, in both device states. -/
def Obligations.ReadEventReturnsTheRecord : Prop :=
  ∀ (s q : State) (arg tag : Byte) (data : Word), s.settle = q → q.listens →
    (∀ i : Fin 18, arg.toNat = i.val → exec (.readEvent arg data tag) s = .next
      (q.answering 0x13 arg data tag { result := .ok, flags := 0, data := (q.events[i].count.setWidth 32 +
        (if q.events[i].pending then 16 else 0) + (if q.eventEnable.getLsbD i then 32 else 0)) })) ∧
    (18 ≤ arg.toNat → exec (.readEvent arg data tag) s = .next
      (q.answering 0x13 arg data tag { result := .badArgument, flags := 0, data := 0 }))

/-- R145, R157: ACK_EVENT compares the count it carries with the event's. -/
def Obligations.AckEventComparesTheCount : Prop :=
  ∀ (s q : State) (arg tag : Byte) (data : Word), s.settle = q → q.listens → q.device = .running →
    (∀ (i : Fin 18) (t : State), arg.toNat = i.val →
      t = { q with events := q.events.set i { q.events[i] with pending := false } } →
      ((data.extractLsb' 0 8).toNat = q.events[i].count.toNat → exec (.ackEvent arg data tag) s = .next
        (t.answering 0x22 arg data tag { result := .ok, flags := 0, data := t.eventWord i })) ∧
      ((data.extractLsb' 0 8).toNat ≤ 15 → (data.extractLsb' 0 8).toNat ≠ q.events[i].count.toNat →
        exec (.ackEvent arg data tag) s = .next
          (q.answering 0x22 arg data tag { result := .stale, flags := 0, data := q.eventWord i }))) ∧
    ((18 ≤ arg.toNat ∨ 15 < (data.extractLsb' 0 8).toNat) → exec (.ackEvent arg data tag) s = .next
      (q.answering 0x22 arg data tag { result := .badArgument, flags := 0, data := 0 }))

/-- R169: CLEAR_COUNTERS sets the counters it names to 0 and changes nothing else but the link. -/
def Obligations.ClearCountersClearsWhatItNames : Prop :=
  ∀ (s q : State) (arg tag : Byte) (data : Word), s.settle = q → q.listens → q.device = .running → arg.toNat ≤ 3 →
    ∃ t, exec (.clearCounters arg data tag) s = .next t ∧
      (∀ d c, t.counter d c = if arg = 3 ∨ arg = (if d = .d0 then 0 else 1) then 0 else q.counter d c) ∧
      (∀ c, t.devCounter c = if arg = 3 ∨ arg = 2 then 0 else q.devCounter c) ∧
      (∀ d, { t.dom d with counters := (q.dom d).counters } = q.dom d) ∧
      t.link = q.link.answered (commandFrame 0x23 arg data tag) 0x23 tag { result := .ok, flags := 0, data := 0 } ∧
      { t with dom0 := q.dom0, dom1 := q.dom1, devCounters := q.devCounters, link := q.link } = q

/-- R120, R121, Tables 7.5 and 10.9: START of a domain in use, of an OFF domain whose table fails a check, and of one whose table is
sound; which check fails first, with the index it reports; and the kind and the index in the response. -/
def Obligations.StartJudgesTheTables : Prop :=
  (∀ (s q : State) (d : Dom) (arg tag : Byte) (data : Word), s.settle = q → q.listens → q.device = .running →
    arg = (if d = .d0 then 0 else 1) →
    ((q.dom d).state ≠ .off → exec (.start arg data tag) s = .next
      (q.answering 0x31 arg data tag { result := .state, flags := 0, data := 0 })) ∧
    (∀ f, (q.dom d).state = .off → q.tableFault d = some f → exec (.start arg data tag) s = .next
      (q.answering 0x31 arg data tag { result := .invalidTable, flags := 0, data := tableFaultWord f })) ∧
    ((q.dom d).state = .off → q.tableFault d = none → exec (.start arg data tag) s = .next
      ((q.updDom d fun x => { x with
        state := .active, timer := if x.params.timerRun then some x.params.period.toNat else none }).answering
        0x31 arg data tag { result := .ok, flags := 0, data := 0 }))) ∧
  (∀ (q : State) (d : Dom),
    (q.tableFault d = none ↔
      (∃ w, q.windowOf d w) ∧ (∀ w, q.windowOf d w → q.alignedWindow w ∧ q.apartWindow w) ∧
        ∀ g, q.groupInDom d g → q.insideGroup g ∧ q.apartGroup d g) ∧
    (∀ i, q.tableFault d = some (.noWindow, i) ↔ i = 0 ∧ ∀ w, ¬q.windowOf d w) ∧
    (∀ i, q.tableFault d = some (.misaligned, i) ↔ ∃ w, w.val = i ∧ q.windowOf d w ∧ ¬q.alignedWindow w ∧
      ∀ v < w, q.windowOf d v → q.alignedWindow v ∧ q.apartWindow v) ∧
    (∀ i, q.tableFault d = some (.windowOverlap, i) ↔
      ∃ w, w.val = i ∧ q.windowOf d w ∧ q.alignedWindow w ∧ ¬q.apartWindow w ∧
        ∀ v < w, q.windowOf d v → q.alignedWindow v ∧ q.apartWindow v) ∧
    (∀ i, q.tableFault d = some (.groupOutside, i) ↔
      (∃ w, q.windowOf d w) ∧ (∀ w, q.windowOf d w → q.alignedWindow w ∧ q.apartWindow w) ∧
        ∃ g, g.val = i ∧ q.groupInDom d g ∧ ¬q.insideGroup g ∧
          ∀ h < g, q.groupInDom d h → q.insideGroup h ∧ q.apartGroup d h) ∧
    (∀ i, q.tableFault d = some (.groupOverlap, i) ↔
      (∃ w, q.windowOf d w) ∧ (∀ w, q.windowOf d w → q.alignedWindow w ∧ q.apartWindow w) ∧
        ∃ g, g.val = i ∧ q.groupInDom d g ∧ q.insideGroup g ∧ ¬q.apartGroup d g ∧
          ∀ h < g, q.groupInDom d h → q.insideGroup h ∧ q.apartGroup d h)) ∧
  ∀ i : Fin 16,
    tableFaultWord (.noWindow, i) = BitVec.ofNat 32 (0x100 + i) ∧
    tableFaultWord (.misaligned, i) = BitVec.ofNat 32 (0x200 + i) ∧
    tableFaultWord (.windowOverlap, i) = BitVec.ofNat 32 (0x300 + i) ∧
    tableFaultWord (.groupOutside, i) = BitVec.ofNat 32 (0x400 + i) ∧
    tableFaultWord (.groupOverlap, i) = BitVec.ofNat 32 (0x500 + i)

/-- R123, R32: STOP of an ACTIVE domain puts it into FLUSHING and requests a FINAL boundary; in another state it is refused. -/
def Obligations.StopFlushesAnActiveDomain : Prop :=
  ∀ (s q : State) (d : Dom) (arg tag : Byte) (data : Word), s.settleForRequest d .stop = q → q.listens → q.device = .running →
    arg = (if d = .d0 then 0 else 1) →
    ((q.dom d).state = .active → exec (.stop arg data tag) s = .next
      (((q.updDom d fun x => { x with state := .flushing false }).request d .stop).answering
        0x32 arg data tag { result := .ok, flags := 0, data := 0 })) ∧
    ((q.dom d).state ≠ .active → exec (.stop arg data tag) s = .next
      (q.answering 0x32 arg data tag { result := .state, flags := 0, data := 0 }))

/-- R31: CLOSE of an ACTIVE domain raises one LINK request and leaves the epoch timer; in another state it is refused. -/
def Obligations.CloseRequestsALinkBoundary : Prop :=
  ∀ (s q : State) (d : Dom) (arg tag : Byte) (data : Word), s.settleForRequest d .link = q → q.listens → q.device = .running →
    arg = (if d = .d0 then 0 else 1) →
    ((q.dom d).state = .active → exec (.close arg data tag) s = .next
      ((q.request d .link).answering 0x33 arg data tag { result := .ok, flags := 0, data := 0 })) ∧
    (∀ e, ((q.request d .link).dom e).timer = (q.dom e).timer) ∧
    ((q.dom d).state ≠ .active → exec (.close arg data tag) s = .next
      (q.answering 0x33 arg data tag { result := .state, flags := 0, data := 0 }))

/-- R21, R41, R158: DISCARD empties the open bank and closes the groups of its domain; past the final commit point, or OFF, it is
refused. -/
def Obligations.DiscardEmptiesTheOpenBank : Prop :=
  ∀ (s q : State) (d : Dom) (arg tag : Byte) (data : Word) (x : Domain), s.settle = q → q.listens →
    q.device = .running → arg = (if d = .d0 then 0 else 1) → q.dom d = x →
    ((x.state = .active ∨ (x.state ≠ .off ∧ x.sched ≠ .idle)) →
      ∃ t, exec (.discard arg data tag) s = .next t ∧
        { t.dom d with counters := x.counters } = { x with openBank := [] } ∧
        t.free = q.free + x.openBank.length ∧
        q.counted t d (fun c => if c = .discarded then x.openBank.length else 0) ∧
        q.groupsClosed t d ∧
        t.link = q.link.answered (commandFrame 0x34 arg data tag) 0x34 tag { result := .ok, flags := 0, data := 0 } ∧
        t.dom (otherDom d) = q.dom (otherDom d) ∧
        { t with dom0 := q.dom0, dom1 := q.dom1, free := q.free, groupStates := q.groupStates, link := q.link } = q) ∧
    (¬(x.state = .active ∨ (x.state ≠ .off ∧ x.sched ≠ .idle)) → exec (.discard arg data tag) s = .next
      (q.answering 0x34 arg data tag { result := .state, flags := 0, data := 0 }))

/-- R126, Table 7.6: the acceptance of a RESTART. -/
def Obligations.RestartIsAccepted : Prop :=
  ∀ (s q : State) (arg tag : Byte) (data : Word), s.settle = q → q.listens → q.device = .running →
    ∃ t, exec (.restart arg data tag) s = .next t ∧
      t.device = .restarting ∧
      (∀ d, { t.dom d with counters := (q.dom d).counters } =
        { q.dom d with openBank := [], sched := .idle, timer := none }) ∧
      (∀ d, q.counted t d (fun c => if c = .discarded then (q.dom d).openBank.length else 0)) ∧
      t.free = q.free + q.dom0.openBank.length + q.dom1.openBank.length ∧
      t.held = q.held.map (fun h => { h with reason := .restart }) ∧
      (∀ g : Fin 16, t.groupStates[g] = .closed) ∧
      t.link = q.link.answered (commandFrame 0x3A arg data tag) 0x3A tag { result := .ok, flags := 0, data := 0 } ∧
      { t with
        device := q.device, dom0 := q.dom0, dom1 := q.dom1, free := q.free, held := q.held
        groupStates := q.groupStates, link := q.link } = q

/-! ### What every step keeps -/

/-- R1, R6, R12, R39, R42, R95, R99, R106, R119, R124, R127, R173: slots are conserved, and states, banks, schedulers and quotas agree,
after every step; while RESET_N is low there is no held write, drain, entry, pending boundary or running timer. -/
def Obligations.StatesStayInOrder : Prop :=
  ∀ s t : State, s.StatesInOrder → step s = .next t → t.StatesInOrder

/-- R3, R4, R17, R81, R84, R97, R98, R111, R170, R173: after every step no bank holds two entries of one address or an entry with an
empty mask, every access outstanding stands in exactly one place, the drain engine is WRITING exactly while one write of its head
element is presented, granted or on MP, each read record goes with its port's read request, and an element is fenced exactly
while the consumer's read of its domain is. -/
def Obligations.BanksAndPortsStayInOrder : Prop :=
  ∀ s t : State, s.StatesInOrder → s.BanksInOrder → step s = .next t → t.BanksInOrder

/-- R133, R135, R136, R137, R138, R35: the ring of the commit history stays in the order of its serials, the fields of each record hold
together, and a PENDING record is its domain's newest, with its element in the drain queue. -/
def Obligations.HistoryStaysInOrder : Prop :=
  ∀ s t : State, s.StatesInOrder → s.RingInOrder → step s = .next t → t.RingInOrder

/-- R109: no wait count ever exceeds 10, and CP's never 8. -/
def Obligations.WaitCountsStayBounded : Prop :=
  ∀ s t : State, s.WaitsInOrder → step s = .next t → t.WaitsInOrder

/-- R165: every writable parameter stays in its range. -/
def Obligations.ParametersStayInRange : Prop :=
  ∀ s t : State, s.ParamsInOrder → step s = .next t → t.ParamsInOrder

/-- The orders hold after reset (the line levels of State.reset are DESIGN CHOICE, log 10, and play no part). -/
def Obligations.ResetStateIsInOrder : Prop :=
  State.reset.StatesInOrder ∧ State.reset.BanksInOrder ∧ State.reset.RingInOrder ∧ State.reset.WaitsInOrder ∧
    State.reset.ParamsInOrder
end

