-- ==== Sys2Proof/Laws/State.lean ====
section
/-! SUPPORT. The small lemmas of the state's updates: what each update leaves as it was, field by field, and what it writes. -/

namespace Sys2Proof.Machine

variable (s : State)

/-! ### Reading a domain back -/

@[simp] theorem dom_d0 : s.dom .d0 = s.dom0 := rfl
@[simp] theorem dom_d1 : s.dom .d1 = s.dom1 := rfl
@[simp] theorem setDom_dom_same (d : Dom) (x : Domain) : (s.setDom d x).dom d = x := by cases d <;> rfl
theorem setDom_dom_other {d e : Dom} (h : e ≠ d) (x : Domain) : (s.setDom d x).dom e = s.dom e := by
  cases d <;> cases e <;> first | rfl | exact absurd rfl h
@[simp] theorem updDom_dom_same (d : Dom) (f : Domain → Domain) : (s.updDom d f).dom d = f (s.dom d) := by cases d <;> rfl
theorem updDom_dom_other {d e : Dom} (h : e ≠ d) (f : Domain → Domain) : (s.updDom d f).dom e = s.dom e :=
  setDom_dom_other s h _


/-! ### setDom -/

@[simp] theorem setDom_resetN (d : Dom) (x : Domain) : (s.setDom d x).resetN = s.resetN := by cases d <;> rfl
@[simp] theorem setDom_device (d : Dom) (x : Domain) : (s.setDom d x).device = s.device := by cases d <;> rfl
@[simp] theorem setDom_free (d : Dom) (x : Domain) : (s.setDom d x).free = s.free := by cases d <;> rfl
@[simp] theorem setDom_held (d : Dom) (x : Domain) : (s.setDom d x).held = s.held := by cases d <;> rfl
@[simp] theorem setDom_windows (d : Dom) (x : Domain) : (s.setDom d x).windows = s.windows := by cases d <;> rfl
@[simp] theorem setDom_groups (d : Dom) (x : Domain) : (s.setDom d x).groups = s.groups := by cases d <;> rfl
@[simp] theorem setDom_groupStates (d : Dom) (x : Domain) : (s.setDom d x).groupStates = s.groupStates := by cases d <;> rfl
@[simp] theorem setDom_queue (d : Dom) (x : Domain) : (s.setDom d x).queue = s.queue := by cases d <;> rfl
@[simp] theorem setDom_engine (d : Dom) (x : Domain) : (s.setDom d x).engine = s.engine := by cases d <;> rfl
@[simp] theorem setDom_arb (d : Dom) (x : Domain) : (s.setDom d x).arb = s.arb := by cases d <;> rfl
@[simp] theorem setDom_wp (d : Dom) (x : Domain) : (s.setDom d x).wp = s.wp := by cases d <;> rfl
@[simp] theorem setDom_cp (d : Dom) (x : Domain) : (s.setDom d x).cp = s.cp := by cases d <;> rfl
@[simp] theorem setDom_wpRead (d : Dom) (x : Domain) : (s.setDom d x).wpRead = s.wpRead := by cases d <;> rfl
@[simp] theorem setDom_cpRead (d : Dom) (x : Domain) : (s.setDom d x).cpRead = s.cpRead := by cases d <;> rfl
@[simp] theorem setDom_history (d : Dom) (x : Domain) : (s.setDom d x).history = s.history := by cases d <;> rfl
@[simp] theorem setDom_serial (d : Dom) (x : Domain) : (s.setDom d x).serial = s.serial := by cases d <;> rfl
@[simp] theorem setDom_events (d : Dom) (x : Domain) : (s.setDom d x).events = s.events := by cases d <;> rfl
@[simp] theorem setDom_eventEnable (d : Dom) (x : Domain) : (s.setDom d x).eventEnable = s.eventEnable := by cases d <;> rfl
@[simp] theorem setDom_devCounters (d : Dom) (x : Domain) : (s.setDom d x).devCounters = s.devCounters := by cases d <;> rfl
@[simp] theorem setDom_tickDiv (d : Dom) (x : Domain) : (s.setDom d x).tickDiv = s.tickDiv := by cases d <;> rfl
@[simp] theorem setDom_memTimeout (d : Dom) (x : Domain) : (s.setDom d x).memTimeout = s.memTimeout := by cases d <;> rfl
@[simp] theorem setDom_time (d : Dom) (x : Domain) : (s.setDom d x).time = s.time := by cases d <;> rfl
@[simp] theorem setDom_recValid (d : Dom) (x : Domain) : (s.setDom d x).recValid = s.recValid := by cases d <;> rfl
@[simp] theorem setDom_recHeldLost (d : Dom) (x : Domain) : (s.setDom d x).recHeldLost = s.recHeldLost := by cases d <;> rfl
@[simp] theorem setDom_link (d : Dom) (x : Domain) : (s.setDom d x).link = s.link := by cases d <;> rfl
@[simp] theorem setDom_pending (d : Dom) (x : Domain) : (s.setDom d x).pending = s.pending := by cases d <;> rfl

/-! ### updDom -/

@[simp] theorem updDom_resetN (d : Dom) (f : Domain → Domain) : (s.updDom d f).resetN = s.resetN := by cases d <;> rfl
@[simp] theorem updDom_device (d : Dom) (f : Domain → Domain) : (s.updDom d f).device = s.device := by cases d <;> rfl
@[simp] theorem updDom_free (d : Dom) (f : Domain → Domain) : (s.updDom d f).free = s.free := by cases d <;> rfl
@[simp] theorem updDom_held (d : Dom) (f : Domain → Domain) : (s.updDom d f).held = s.held := by cases d <;> rfl
@[simp] theorem updDom_windows (d : Dom) (f : Domain → Domain) : (s.updDom d f).windows = s.windows := by cases d <;> rfl
@[simp] theorem updDom_groups (d : Dom) (f : Domain → Domain) : (s.updDom d f).groups = s.groups := by cases d <;> rfl
@[simp] theorem updDom_groupStates (d : Dom) (f : Domain → Domain) : (s.updDom d f).groupStates = s.groupStates := by cases d <;> rfl
@[simp] theorem updDom_queue (d : Dom) (f : Domain → Domain) : (s.updDom d f).queue = s.queue := by cases d <;> rfl
@[simp] theorem updDom_engine (d : Dom) (f : Domain → Domain) : (s.updDom d f).engine = s.engine := by cases d <;> rfl
@[simp] theorem updDom_arb (d : Dom) (f : Domain → Domain) : (s.updDom d f).arb = s.arb := by cases d <;> rfl
@[simp] theorem updDom_wp (d : Dom) (f : Domain → Domain) : (s.updDom d f).wp = s.wp := by cases d <;> rfl
@[simp] theorem updDom_cp (d : Dom) (f : Domain → Domain) : (s.updDom d f).cp = s.cp := by cases d <;> rfl
@[simp] theorem updDom_wpRead (d : Dom) (f : Domain → Domain) : (s.updDom d f).wpRead = s.wpRead := by cases d <;> rfl
@[simp] theorem updDom_cpRead (d : Dom) (f : Domain → Domain) : (s.updDom d f).cpRead = s.cpRead := by cases d <;> rfl
@[simp] theorem updDom_history (d : Dom) (f : Domain → Domain) : (s.updDom d f).history = s.history := by cases d <;> rfl
@[simp] theorem updDom_serial (d : Dom) (f : Domain → Domain) : (s.updDom d f).serial = s.serial := by cases d <;> rfl
@[simp] theorem updDom_events (d : Dom) (f : Domain → Domain) : (s.updDom d f).events = s.events := by cases d <;> rfl
@[simp] theorem updDom_eventEnable (d : Dom) (f : Domain → Domain) : (s.updDom d f).eventEnable = s.eventEnable := by cases d <;> rfl
@[simp] theorem updDom_devCounters (d : Dom) (f : Domain → Domain) : (s.updDom d f).devCounters = s.devCounters := by cases d <;> rfl
@[simp] theorem updDom_tickDiv (d : Dom) (f : Domain → Domain) : (s.updDom d f).tickDiv = s.tickDiv := by cases d <;> rfl
@[simp] theorem updDom_memTimeout (d : Dom) (f : Domain → Domain) : (s.updDom d f).memTimeout = s.memTimeout := by cases d <;> rfl
@[simp] theorem updDom_time (d : Dom) (f : Domain → Domain) : (s.updDom d f).time = s.time := by cases d <;> rfl
@[simp] theorem updDom_recValid (d : Dom) (f : Domain → Domain) : (s.updDom d f).recValid = s.recValid := by cases d <;> rfl
@[simp] theorem updDom_recHeldLost (d : Dom) (f : Domain → Domain) : (s.updDom d f).recHeldLost = s.recHeldLost := by cases d <;> rfl
@[simp] theorem updDom_link (d : Dom) (f : Domain → Domain) : (s.updDom d f).link = s.link := by cases d <;> rfl
@[simp] theorem updDom_pending (d : Dom) (f : Domain → Domain) : (s.updDom d f).pending = s.pending := by cases d <;> rfl

/-! ### bump -/

@[simp] theorem bump_resetN (d : Dom) (c : DomCounter) (n : Nat) : (s.bump d c n).resetN = s.resetN := by cases d <;> rfl
@[simp] theorem bump_device (d : Dom) (c : DomCounter) (n : Nat) : (s.bump d c n).device = s.device := by cases d <;> rfl
@[simp] theorem bump_free (d : Dom) (c : DomCounter) (n : Nat) : (s.bump d c n).free = s.free := by cases d <;> rfl
@[simp] theorem bump_held (d : Dom) (c : DomCounter) (n : Nat) : (s.bump d c n).held = s.held := by cases d <;> rfl
@[simp] theorem bump_windows (d : Dom) (c : DomCounter) (n : Nat) : (s.bump d c n).windows = s.windows := by cases d <;> rfl
@[simp] theorem bump_groups (d : Dom) (c : DomCounter) (n : Nat) : (s.bump d c n).groups = s.groups := by cases d <;> rfl
@[simp] theorem bump_groupStates (d : Dom) (c : DomCounter) (n : Nat) : (s.bump d c n).groupStates = s.groupStates := by cases d <;> rfl
@[simp] theorem bump_queue (d : Dom) (c : DomCounter) (n : Nat) : (s.bump d c n).queue = s.queue := by cases d <;> rfl
@[simp] theorem bump_engine (d : Dom) (c : DomCounter) (n : Nat) : (s.bump d c n).engine = s.engine := by cases d <;> rfl
@[simp] theorem bump_arb (d : Dom) (c : DomCounter) (n : Nat) : (s.bump d c n).arb = s.arb := by cases d <;> rfl
@[simp] theorem bump_wp (d : Dom) (c : DomCounter) (n : Nat) : (s.bump d c n).wp = s.wp := by cases d <;> rfl
@[simp] theorem bump_cp (d : Dom) (c : DomCounter) (n : Nat) : (s.bump d c n).cp = s.cp := by cases d <;> rfl
@[simp] theorem bump_wpRead (d : Dom) (c : DomCounter) (n : Nat) : (s.bump d c n).wpRead = s.wpRead := by cases d <;> rfl
@[simp] theorem bump_cpRead (d : Dom) (c : DomCounter) (n : Nat) : (s.bump d c n).cpRead = s.cpRead := by cases d <;> rfl
@[simp] theorem bump_history (d : Dom) (c : DomCounter) (n : Nat) : (s.bump d c n).history = s.history := by cases d <;> rfl
@[simp] theorem bump_serial (d : Dom) (c : DomCounter) (n : Nat) : (s.bump d c n).serial = s.serial := by cases d <;> rfl
@[simp] theorem bump_events (d : Dom) (c : DomCounter) (n : Nat) : (s.bump d c n).events = s.events := by cases d <;> rfl
@[simp] theorem bump_eventEnable (d : Dom) (c : DomCounter) (n : Nat) : (s.bump d c n).eventEnable = s.eventEnable := by cases d <;> rfl
@[simp] theorem bump_devCounters (d : Dom) (c : DomCounter) (n : Nat) : (s.bump d c n).devCounters = s.devCounters := by cases d <;> rfl
@[simp] theorem bump_tickDiv (d : Dom) (c : DomCounter) (n : Nat) : (s.bump d c n).tickDiv = s.tickDiv := by cases d <;> rfl
@[simp] theorem bump_memTimeout (d : Dom) (c : DomCounter) (n : Nat) : (s.bump d c n).memTimeout = s.memTimeout := by cases d <;> rfl
@[simp] theorem bump_time (d : Dom) (c : DomCounter) (n : Nat) : (s.bump d c n).time = s.time := by cases d <;> rfl
@[simp] theorem bump_recValid (d : Dom) (c : DomCounter) (n : Nat) : (s.bump d c n).recValid = s.recValid := by cases d <;> rfl
@[simp] theorem bump_recHeldLost (d : Dom) (c : DomCounter) (n : Nat) : (s.bump d c n).recHeldLost = s.recHeldLost := by cases d <;> rfl
@[simp] theorem bump_link (d : Dom) (c : DomCounter) (n : Nat) : (s.bump d c n).link = s.link := by cases d <;> rfl
@[simp] theorem bump_pending (d : Dom) (c : DomCounter) (n : Nat) : (s.bump d c n).pending = s.pending := by cases d <;> rfl

/-! ### bumpDev -/

@[simp] theorem bumpDev_resetN (c : DevCounter) : (s.bumpDev c).resetN = s.resetN := rfl
@[simp] theorem bumpDev_device (c : DevCounter) : (s.bumpDev c).device = s.device := rfl
@[simp] theorem bumpDev_dom0 (c : DevCounter) : (s.bumpDev c).dom0 = s.dom0 := rfl
@[simp] theorem bumpDev_dom1 (c : DevCounter) : (s.bumpDev c).dom1 = s.dom1 := rfl
@[simp] theorem bumpDev_free (c : DevCounter) : (s.bumpDev c).free = s.free := rfl
@[simp] theorem bumpDev_held (c : DevCounter) : (s.bumpDev c).held = s.held := rfl
@[simp] theorem bumpDev_windows (c : DevCounter) : (s.bumpDev c).windows = s.windows := rfl
@[simp] theorem bumpDev_groups (c : DevCounter) : (s.bumpDev c).groups = s.groups := rfl
@[simp] theorem bumpDev_groupStates (c : DevCounter) : (s.bumpDev c).groupStates = s.groupStates := rfl
@[simp] theorem bumpDev_queue (c : DevCounter) : (s.bumpDev c).queue = s.queue := rfl
@[simp] theorem bumpDev_engine (c : DevCounter) : (s.bumpDev c).engine = s.engine := rfl
@[simp] theorem bumpDev_arb (c : DevCounter) : (s.bumpDev c).arb = s.arb := rfl
@[simp] theorem bumpDev_wp (c : DevCounter) : (s.bumpDev c).wp = s.wp := rfl
@[simp] theorem bumpDev_cp (c : DevCounter) : (s.bumpDev c).cp = s.cp := rfl
@[simp] theorem bumpDev_wpRead (c : DevCounter) : (s.bumpDev c).wpRead = s.wpRead := rfl
@[simp] theorem bumpDev_cpRead (c : DevCounter) : (s.bumpDev c).cpRead = s.cpRead := rfl
@[simp] theorem bumpDev_history (c : DevCounter) : (s.bumpDev c).history = s.history := rfl
@[simp] theorem bumpDev_serial (c : DevCounter) : (s.bumpDev c).serial = s.serial := rfl
@[simp] theorem bumpDev_events (c : DevCounter) : (s.bumpDev c).events = s.events := rfl
@[simp] theorem bumpDev_eventEnable (c : DevCounter) : (s.bumpDev c).eventEnable = s.eventEnable := rfl
@[simp] theorem bumpDev_tickDiv (c : DevCounter) : (s.bumpDev c).tickDiv = s.tickDiv := rfl
@[simp] theorem bumpDev_memTimeout (c : DevCounter) : (s.bumpDev c).memTimeout = s.memTimeout := rfl
@[simp] theorem bumpDev_time (c : DevCounter) : (s.bumpDev c).time = s.time := rfl
@[simp] theorem bumpDev_recValid (c : DevCounter) : (s.bumpDev c).recValid = s.recValid := rfl
@[simp] theorem bumpDev_recHeldLost (c : DevCounter) : (s.bumpDev c).recHeldLost = s.recHeldLost := rfl
@[simp] theorem bumpDev_link (c : DevCounter) : (s.bumpDev c).link = s.link := rfl
@[simp] theorem bumpDev_pending (c : DevCounter) : (s.bumpDev c).pending = s.pending := rfl
@[simp] theorem bumpDev_dom (c : DevCounter) (e : Dom) : (s.bumpDev c).dom e = s.dom e := by cases e <;> rfl

/-! ### raise -/

@[simp] theorem raise_resetN (v : Event) : (s.raise v).resetN = s.resetN := rfl
@[simp] theorem raise_device (v : Event) : (s.raise v).device = s.device := rfl
@[simp] theorem raise_dom0 (v : Event) : (s.raise v).dom0 = s.dom0 := rfl
@[simp] theorem raise_dom1 (v : Event) : (s.raise v).dom1 = s.dom1 := rfl
@[simp] theorem raise_free (v : Event) : (s.raise v).free = s.free := rfl
@[simp] theorem raise_held (v : Event) : (s.raise v).held = s.held := rfl
@[simp] theorem raise_windows (v : Event) : (s.raise v).windows = s.windows := rfl
@[simp] theorem raise_groups (v : Event) : (s.raise v).groups = s.groups := rfl
@[simp] theorem raise_groupStates (v : Event) : (s.raise v).groupStates = s.groupStates := rfl
@[simp] theorem raise_queue (v : Event) : (s.raise v).queue = s.queue := rfl
@[simp] theorem raise_engine (v : Event) : (s.raise v).engine = s.engine := rfl
@[simp] theorem raise_arb (v : Event) : (s.raise v).arb = s.arb := rfl
@[simp] theorem raise_wp (v : Event) : (s.raise v).wp = s.wp := rfl
@[simp] theorem raise_cp (v : Event) : (s.raise v).cp = s.cp := rfl
@[simp] theorem raise_wpRead (v : Event) : (s.raise v).wpRead = s.wpRead := rfl
@[simp] theorem raise_cpRead (v : Event) : (s.raise v).cpRead = s.cpRead := rfl
@[simp] theorem raise_history (v : Event) : (s.raise v).history = s.history := rfl
@[simp] theorem raise_serial (v : Event) : (s.raise v).serial = s.serial := rfl
@[simp] theorem raise_eventEnable (v : Event) : (s.raise v).eventEnable = s.eventEnable := rfl
@[simp] theorem raise_devCounters (v : Event) : (s.raise v).devCounters = s.devCounters := rfl
@[simp] theorem raise_tickDiv (v : Event) : (s.raise v).tickDiv = s.tickDiv := rfl
@[simp] theorem raise_memTimeout (v : Event) : (s.raise v).memTimeout = s.memTimeout := rfl
@[simp] theorem raise_time (v : Event) : (s.raise v).time = s.time := rfl
@[simp] theorem raise_recValid (v : Event) : (s.raise v).recValid = s.recValid := rfl
@[simp] theorem raise_recHeldLost (v : Event) : (s.raise v).recHeldLost = s.recHeldLost := rfl
@[simp] theorem raise_link (v : Event) : (s.raise v).link = s.link := rfl
@[simp] theorem raise_pending (v : Event) : (s.raise v).pending = s.pending := rfl
@[simp] theorem raise_dom (v : Event) (e : Dom) : (s.raise v).dom e = s.dom e := by cases e <;> rfl

/-! ### clearPending -/

@[simp] theorem clearPending_resetN (i : Fin 18) : (s.clearPending i).resetN = s.resetN := rfl
@[simp] theorem clearPending_device (i : Fin 18) : (s.clearPending i).device = s.device := rfl
@[simp] theorem clearPending_dom0 (i : Fin 18) : (s.clearPending i).dom0 = s.dom0 := rfl
@[simp] theorem clearPending_dom1 (i : Fin 18) : (s.clearPending i).dom1 = s.dom1 := rfl
@[simp] theorem clearPending_free (i : Fin 18) : (s.clearPending i).free = s.free := rfl
@[simp] theorem clearPending_held (i : Fin 18) : (s.clearPending i).held = s.held := rfl
@[simp] theorem clearPending_windows (i : Fin 18) : (s.clearPending i).windows = s.windows := rfl
@[simp] theorem clearPending_groups (i : Fin 18) : (s.clearPending i).groups = s.groups := rfl
@[simp] theorem clearPending_groupStates (i : Fin 18) : (s.clearPending i).groupStates = s.groupStates := rfl
@[simp] theorem clearPending_queue (i : Fin 18) : (s.clearPending i).queue = s.queue := rfl
@[simp] theorem clearPending_engine (i : Fin 18) : (s.clearPending i).engine = s.engine := rfl
@[simp] theorem clearPending_arb (i : Fin 18) : (s.clearPending i).arb = s.arb := rfl
@[simp] theorem clearPending_wp (i : Fin 18) : (s.clearPending i).wp = s.wp := rfl
@[simp] theorem clearPending_cp (i : Fin 18) : (s.clearPending i).cp = s.cp := rfl
@[simp] theorem clearPending_wpRead (i : Fin 18) : (s.clearPending i).wpRead = s.wpRead := rfl
@[simp] theorem clearPending_cpRead (i : Fin 18) : (s.clearPending i).cpRead = s.cpRead := rfl
@[simp] theorem clearPending_history (i : Fin 18) : (s.clearPending i).history = s.history := rfl
@[simp] theorem clearPending_serial (i : Fin 18) : (s.clearPending i).serial = s.serial := rfl
@[simp] theorem clearPending_eventEnable (i : Fin 18) : (s.clearPending i).eventEnable = s.eventEnable := rfl
@[simp] theorem clearPending_devCounters (i : Fin 18) : (s.clearPending i).devCounters = s.devCounters := rfl
@[simp] theorem clearPending_tickDiv (i : Fin 18) : (s.clearPending i).tickDiv = s.tickDiv := rfl
@[simp] theorem clearPending_memTimeout (i : Fin 18) : (s.clearPending i).memTimeout = s.memTimeout := rfl
@[simp] theorem clearPending_time (i : Fin 18) : (s.clearPending i).time = s.time := rfl
@[simp] theorem clearPending_recValid (i : Fin 18) : (s.clearPending i).recValid = s.recValid := rfl
@[simp] theorem clearPending_recHeldLost (i : Fin 18) : (s.clearPending i).recHeldLost = s.recHeldLost := rfl
@[simp] theorem clearPending_link (i : Fin 18) : (s.clearPending i).link = s.link := rfl
@[simp] theorem clearPending_pending (i : Fin 18) : (s.clearPending i).pending = s.pending := rfl
@[simp] theorem clearPending_dom (i : Fin 18) (e : Dom) : (s.clearPending i).dom e = s.dom e := by cases e <;> rfl

/-! ### answerWp -/

@[simp] theorem answerWp_resetN (err : Bool) (w : Word) : (s.answerWp err w).resetN = s.resetN := rfl
@[simp] theorem answerWp_device (err : Bool) (w : Word) : (s.answerWp err w).device = s.device := rfl
@[simp] theorem answerWp_dom0 (err : Bool) (w : Word) : (s.answerWp err w).dom0 = s.dom0 := rfl
@[simp] theorem answerWp_dom1 (err : Bool) (w : Word) : (s.answerWp err w).dom1 = s.dom1 := rfl
@[simp] theorem answerWp_free (err : Bool) (w : Word) : (s.answerWp err w).free = s.free := rfl
@[simp] theorem answerWp_held (err : Bool) (w : Word) : (s.answerWp err w).held = s.held := rfl
@[simp] theorem answerWp_windows (err : Bool) (w : Word) : (s.answerWp err w).windows = s.windows := rfl
@[simp] theorem answerWp_groups (err : Bool) (w : Word) : (s.answerWp err w).groups = s.groups := rfl
@[simp] theorem answerWp_groupStates (err : Bool) (w : Word) : (s.answerWp err w).groupStates = s.groupStates := rfl
@[simp] theorem answerWp_queue (err : Bool) (w : Word) : (s.answerWp err w).queue = s.queue := rfl
@[simp] theorem answerWp_engine (err : Bool) (w : Word) : (s.answerWp err w).engine = s.engine := rfl
@[simp] theorem answerWp_arb (err : Bool) (w : Word) : (s.answerWp err w).arb = s.arb := rfl
@[simp] theorem answerWp_cp (err : Bool) (w : Word) : (s.answerWp err w).cp = s.cp := rfl
@[simp] theorem answerWp_wpRead (err : Bool) (w : Word) : (s.answerWp err w).wpRead = s.wpRead := rfl
@[simp] theorem answerWp_cpRead (err : Bool) (w : Word) : (s.answerWp err w).cpRead = s.cpRead := rfl
@[simp] theorem answerWp_history (err : Bool) (w : Word) : (s.answerWp err w).history = s.history := rfl
@[simp] theorem answerWp_serial (err : Bool) (w : Word) : (s.answerWp err w).serial = s.serial := rfl
@[simp] theorem answerWp_events (err : Bool) (w : Word) : (s.answerWp err w).events = s.events := rfl
@[simp] theorem answerWp_eventEnable (err : Bool) (w : Word) : (s.answerWp err w).eventEnable = s.eventEnable := rfl
@[simp] theorem answerWp_devCounters (err : Bool) (w : Word) : (s.answerWp err w).devCounters = s.devCounters := rfl
@[simp] theorem answerWp_tickDiv (err : Bool) (w : Word) : (s.answerWp err w).tickDiv = s.tickDiv := rfl
@[simp] theorem answerWp_memTimeout (err : Bool) (w : Word) : (s.answerWp err w).memTimeout = s.memTimeout := rfl
@[simp] theorem answerWp_time (err : Bool) (w : Word) : (s.answerWp err w).time = s.time := rfl
@[simp] theorem answerWp_recValid (err : Bool) (w : Word) : (s.answerWp err w).recValid = s.recValid := rfl
@[simp] theorem answerWp_recHeldLost (err : Bool) (w : Word) : (s.answerWp err w).recHeldLost = s.recHeldLost := rfl
@[simp] theorem answerWp_link (err : Bool) (w : Word) : (s.answerWp err w).link = s.link := rfl
@[simp] theorem answerWp_pending (err : Bool) (w : Word) : (s.answerWp err w).pending = s.pending := rfl
@[simp] theorem answerWp_dom (err : Bool) (w : Word) (e : Dom) : (s.answerWp err w).dom e = s.dom e := by cases e <;> rfl

/-! ### answerCp -/

@[simp] theorem answerCp_resetN (err : Bool) (w : Word) : (s.answerCp err w).resetN = s.resetN := rfl
@[simp] theorem answerCp_device (err : Bool) (w : Word) : (s.answerCp err w).device = s.device := rfl
@[simp] theorem answerCp_dom0 (err : Bool) (w : Word) : (s.answerCp err w).dom0 = s.dom0 := rfl
@[simp] theorem answerCp_dom1 (err : Bool) (w : Word) : (s.answerCp err w).dom1 = s.dom1 := rfl
@[simp] theorem answerCp_free (err : Bool) (w : Word) : (s.answerCp err w).free = s.free := rfl
@[simp] theorem answerCp_held (err : Bool) (w : Word) : (s.answerCp err w).held = s.held := rfl
@[simp] theorem answerCp_windows (err : Bool) (w : Word) : (s.answerCp err w).windows = s.windows := rfl
@[simp] theorem answerCp_groups (err : Bool) (w : Word) : (s.answerCp err w).groups = s.groups := rfl
@[simp] theorem answerCp_groupStates (err : Bool) (w : Word) : (s.answerCp err w).groupStates = s.groupStates := rfl
@[simp] theorem answerCp_queue (err : Bool) (w : Word) : (s.answerCp err w).queue = s.queue := rfl
@[simp] theorem answerCp_engine (err : Bool) (w : Word) : (s.answerCp err w).engine = s.engine := rfl
@[simp] theorem answerCp_arb (err : Bool) (w : Word) : (s.answerCp err w).arb = s.arb := rfl
@[simp] theorem answerCp_wp (err : Bool) (w : Word) : (s.answerCp err w).wp = s.wp := rfl
@[simp] theorem answerCp_wpRead (err : Bool) (w : Word) : (s.answerCp err w).wpRead = s.wpRead := rfl
@[simp] theorem answerCp_cpRead (err : Bool) (w : Word) : (s.answerCp err w).cpRead = s.cpRead := rfl
@[simp] theorem answerCp_history (err : Bool) (w : Word) : (s.answerCp err w).history = s.history := rfl
@[simp] theorem answerCp_serial (err : Bool) (w : Word) : (s.answerCp err w).serial = s.serial := rfl
@[simp] theorem answerCp_events (err : Bool) (w : Word) : (s.answerCp err w).events = s.events := rfl
@[simp] theorem answerCp_eventEnable (err : Bool) (w : Word) : (s.answerCp err w).eventEnable = s.eventEnable := rfl
@[simp] theorem answerCp_devCounters (err : Bool) (w : Word) : (s.answerCp err w).devCounters = s.devCounters := rfl
@[simp] theorem answerCp_tickDiv (err : Bool) (w : Word) : (s.answerCp err w).tickDiv = s.tickDiv := rfl
@[simp] theorem answerCp_memTimeout (err : Bool) (w : Word) : (s.answerCp err w).memTimeout = s.memTimeout := rfl
@[simp] theorem answerCp_time (err : Bool) (w : Word) : (s.answerCp err w).time = s.time := rfl
@[simp] theorem answerCp_recValid (err : Bool) (w : Word) : (s.answerCp err w).recValid = s.recValid := rfl
@[simp] theorem answerCp_recHeldLost (err : Bool) (w : Word) : (s.answerCp err w).recHeldLost = s.recHeldLost := rfl
@[simp] theorem answerCp_link (err : Bool) (w : Word) : (s.answerCp err w).link = s.link := rfl
@[simp] theorem answerCp_pending (err : Bool) (w : Word) : (s.answerCp err w).pending = s.pending := rfl
@[simp] theorem answerCp_dom (err : Bool) (w : Word) (e : Dom) : (s.answerCp err w).dom e = s.dom e := by cases e <;> rfl

/-! ### acceptWp -/

@[simp] theorem acceptWp_resetN : (s.acceptWp).resetN = s.resetN := rfl
@[simp] theorem acceptWp_device : (s.acceptWp).device = s.device := rfl
@[simp] theorem acceptWp_dom0 : (s.acceptWp).dom0 = s.dom0 := rfl
@[simp] theorem acceptWp_dom1 : (s.acceptWp).dom1 = s.dom1 := rfl
@[simp] theorem acceptWp_free : (s.acceptWp).free = s.free := rfl
@[simp] theorem acceptWp_held : (s.acceptWp).held = s.held := rfl
@[simp] theorem acceptWp_windows : (s.acceptWp).windows = s.windows := rfl
@[simp] theorem acceptWp_groups : (s.acceptWp).groups = s.groups := rfl
@[simp] theorem acceptWp_groupStates : (s.acceptWp).groupStates = s.groupStates := rfl
@[simp] theorem acceptWp_queue : (s.acceptWp).queue = s.queue := rfl
@[simp] theorem acceptWp_engine : (s.acceptWp).engine = s.engine := rfl
@[simp] theorem acceptWp_arb : (s.acceptWp).arb = s.arb := rfl
@[simp] theorem acceptWp_cp : (s.acceptWp).cp = s.cp := rfl
@[simp] theorem acceptWp_wpRead : (s.acceptWp).wpRead = s.wpRead := rfl
@[simp] theorem acceptWp_cpRead : (s.acceptWp).cpRead = s.cpRead := rfl
@[simp] theorem acceptWp_history : (s.acceptWp).history = s.history := rfl
@[simp] theorem acceptWp_serial : (s.acceptWp).serial = s.serial := rfl
@[simp] theorem acceptWp_events : (s.acceptWp).events = s.events := rfl
@[simp] theorem acceptWp_eventEnable : (s.acceptWp).eventEnable = s.eventEnable := rfl
@[simp] theorem acceptWp_devCounters : (s.acceptWp).devCounters = s.devCounters := rfl
@[simp] theorem acceptWp_tickDiv : (s.acceptWp).tickDiv = s.tickDiv := rfl
@[simp] theorem acceptWp_memTimeout : (s.acceptWp).memTimeout = s.memTimeout := rfl
@[simp] theorem acceptWp_time : (s.acceptWp).time = s.time := rfl
@[simp] theorem acceptWp_recValid : (s.acceptWp).recValid = s.recValid := rfl
@[simp] theorem acceptWp_recHeldLost : (s.acceptWp).recHeldLost = s.recHeldLost := rfl
@[simp] theorem acceptWp_link : (s.acceptWp).link = s.link := rfl
@[simp] theorem acceptWp_pending : (s.acceptWp).pending = s.pending := rfl
@[simp] theorem acceptWp_dom (e : Dom) : (s.acceptWp).dom e = s.dom e := by cases e <;> rfl

/-! ### acceptCp -/

@[simp] theorem acceptCp_resetN : (s.acceptCp).resetN = s.resetN := rfl
@[simp] theorem acceptCp_device : (s.acceptCp).device = s.device := rfl
@[simp] theorem acceptCp_dom0 : (s.acceptCp).dom0 = s.dom0 := rfl
@[simp] theorem acceptCp_dom1 : (s.acceptCp).dom1 = s.dom1 := rfl
@[simp] theorem acceptCp_free : (s.acceptCp).free = s.free := rfl
@[simp] theorem acceptCp_held : (s.acceptCp).held = s.held := rfl
@[simp] theorem acceptCp_windows : (s.acceptCp).windows = s.windows := rfl
@[simp] theorem acceptCp_groups : (s.acceptCp).groups = s.groups := rfl
@[simp] theorem acceptCp_groupStates : (s.acceptCp).groupStates = s.groupStates := rfl
@[simp] theorem acceptCp_queue : (s.acceptCp).queue = s.queue := rfl
@[simp] theorem acceptCp_engine : (s.acceptCp).engine = s.engine := rfl
@[simp] theorem acceptCp_arb : (s.acceptCp).arb = s.arb := rfl
@[simp] theorem acceptCp_wp : (s.acceptCp).wp = s.wp := rfl
@[simp] theorem acceptCp_wpRead : (s.acceptCp).wpRead = s.wpRead := rfl
@[simp] theorem acceptCp_cpRead : (s.acceptCp).cpRead = s.cpRead := rfl
@[simp] theorem acceptCp_history : (s.acceptCp).history = s.history := rfl
@[simp] theorem acceptCp_serial : (s.acceptCp).serial = s.serial := rfl
@[simp] theorem acceptCp_events : (s.acceptCp).events = s.events := rfl
@[simp] theorem acceptCp_eventEnable : (s.acceptCp).eventEnable = s.eventEnable := rfl
@[simp] theorem acceptCp_devCounters : (s.acceptCp).devCounters = s.devCounters := rfl
@[simp] theorem acceptCp_tickDiv : (s.acceptCp).tickDiv = s.tickDiv := rfl
@[simp] theorem acceptCp_memTimeout : (s.acceptCp).memTimeout = s.memTimeout := rfl
@[simp] theorem acceptCp_time : (s.acceptCp).time = s.time := rfl
@[simp] theorem acceptCp_recValid : (s.acceptCp).recValid = s.recValid := rfl
@[simp] theorem acceptCp_recHeldLost : (s.acceptCp).recHeldLost = s.recHeldLost := rfl
@[simp] theorem acceptCp_link : (s.acceptCp).link = s.link := rfl
@[simp] theorem acceptCp_pending : (s.acceptCp).pending = s.pending := rfl
@[simp] theorem acceptCp_dom (e : Dom) : (s.acceptCp).dom e = s.dom e := by cases e <;> rfl

/-! ### presentCp -/

@[simp] theorem presentCp_resetN (r : Request) : (s.presentCp r).resetN = s.resetN := rfl
@[simp] theorem presentCp_device (r : Request) : (s.presentCp r).device = s.device := rfl
@[simp] theorem presentCp_dom0 (r : Request) : (s.presentCp r).dom0 = s.dom0 := rfl
@[simp] theorem presentCp_dom1 (r : Request) : (s.presentCp r).dom1 = s.dom1 := rfl
@[simp] theorem presentCp_free (r : Request) : (s.presentCp r).free = s.free := rfl
@[simp] theorem presentCp_held (r : Request) : (s.presentCp r).held = s.held := rfl
@[simp] theorem presentCp_windows (r : Request) : (s.presentCp r).windows = s.windows := rfl
@[simp] theorem presentCp_groups (r : Request) : (s.presentCp r).groups = s.groups := rfl
@[simp] theorem presentCp_groupStates (r : Request) : (s.presentCp r).groupStates = s.groupStates := rfl
@[simp] theorem presentCp_queue (r : Request) : (s.presentCp r).queue = s.queue := rfl
@[simp] theorem presentCp_engine (r : Request) : (s.presentCp r).engine = s.engine := rfl
@[simp] theorem presentCp_wp (r : Request) : (s.presentCp r).wp = s.wp := rfl
@[simp] theorem presentCp_cp (r : Request) : (s.presentCp r).cp = s.cp := rfl
@[simp] theorem presentCp_wpRead (r : Request) : (s.presentCp r).wpRead = s.wpRead := rfl
@[simp] theorem presentCp_cpRead (r : Request) : (s.presentCp r).cpRead = s.cpRead := rfl
@[simp] theorem presentCp_history (r : Request) : (s.presentCp r).history = s.history := rfl
@[simp] theorem presentCp_serial (r : Request) : (s.presentCp r).serial = s.serial := rfl
@[simp] theorem presentCp_events (r : Request) : (s.presentCp r).events = s.events := rfl
@[simp] theorem presentCp_eventEnable (r : Request) : (s.presentCp r).eventEnable = s.eventEnable := rfl
@[simp] theorem presentCp_devCounters (r : Request) : (s.presentCp r).devCounters = s.devCounters := rfl
@[simp] theorem presentCp_tickDiv (r : Request) : (s.presentCp r).tickDiv = s.tickDiv := rfl
@[simp] theorem presentCp_memTimeout (r : Request) : (s.presentCp r).memTimeout = s.memTimeout := rfl
@[simp] theorem presentCp_time (r : Request) : (s.presentCp r).time = s.time := rfl
@[simp] theorem presentCp_recValid (r : Request) : (s.presentCp r).recValid = s.recValid := rfl
@[simp] theorem presentCp_recHeldLost (r : Request) : (s.presentCp r).recHeldLost = s.recHeldLost := rfl
@[simp] theorem presentCp_link (r : Request) : (s.presentCp r).link = s.link := rfl
@[simp] theorem presentCp_pending (r : Request) : (s.presentCp r).pending = s.pending := rfl
@[simp] theorem presentCp_dom (r : Request) (e : Dom) : (s.presentCp r).dom e = s.dom e := by cases e <;> rfl

/-! ### presentWp -/

@[simp] theorem presentWp_resetN (r : Request) : (s.presentWp r).resetN = s.resetN := rfl
@[simp] theorem presentWp_device (r : Request) : (s.presentWp r).device = s.device := rfl
@[simp] theorem presentWp_dom0 (r : Request) : (s.presentWp r).dom0 = s.dom0 := rfl
@[simp] theorem presentWp_dom1 (r : Request) : (s.presentWp r).dom1 = s.dom1 := rfl
@[simp] theorem presentWp_free (r : Request) : (s.presentWp r).free = s.free := rfl
@[simp] theorem presentWp_held (r : Request) : (s.presentWp r).held = s.held := rfl
@[simp] theorem presentWp_windows (r : Request) : (s.presentWp r).windows = s.windows := rfl
@[simp] theorem presentWp_groups (r : Request) : (s.presentWp r).groups = s.groups := rfl
@[simp] theorem presentWp_groupStates (r : Request) : (s.presentWp r).groupStates = s.groupStates := rfl
@[simp] theorem presentWp_queue (r : Request) : (s.presentWp r).queue = s.queue := rfl
@[simp] theorem presentWp_engine (r : Request) : (s.presentWp r).engine = s.engine := rfl
@[simp] theorem presentWp_wp (r : Request) : (s.presentWp r).wp = s.wp := rfl
@[simp] theorem presentWp_cp (r : Request) : (s.presentWp r).cp = s.cp := rfl
@[simp] theorem presentWp_wpRead (r : Request) : (s.presentWp r).wpRead = s.wpRead := rfl
@[simp] theorem presentWp_cpRead (r : Request) : (s.presentWp r).cpRead = s.cpRead := rfl
@[simp] theorem presentWp_history (r : Request) : (s.presentWp r).history = s.history := rfl
@[simp] theorem presentWp_serial (r : Request) : (s.presentWp r).serial = s.serial := rfl
@[simp] theorem presentWp_events (r : Request) : (s.presentWp r).events = s.events := rfl
@[simp] theorem presentWp_eventEnable (r : Request) : (s.presentWp r).eventEnable = s.eventEnable := rfl
@[simp] theorem presentWp_devCounters (r : Request) : (s.presentWp r).devCounters = s.devCounters := rfl
@[simp] theorem presentWp_tickDiv (r : Request) : (s.presentWp r).tickDiv = s.tickDiv := rfl
@[simp] theorem presentWp_memTimeout (r : Request) : (s.presentWp r).memTimeout = s.memTimeout := rfl
@[simp] theorem presentWp_time (r : Request) : (s.presentWp r).time = s.time := rfl
@[simp] theorem presentWp_recValid (r : Request) : (s.presentWp r).recValid = s.recValid := rfl
@[simp] theorem presentWp_recHeldLost (r : Request) : (s.presentWp r).recHeldLost = s.recHeldLost := rfl
@[simp] theorem presentWp_link (r : Request) : (s.presentWp r).link = s.link := rfl
@[simp] theorem presentWp_pending (r : Request) : (s.presentWp r).pending = s.pending := rfl
@[simp] theorem presentWp_dom (r : Request) (e : Dom) : (s.presentWp r).dom e = s.dom e := by cases e <;> rfl

/-! ### presentDrain -/

@[simp] theorem presentDrain_resetN (b : Bank) : (s.presentDrain b).resetN = s.resetN := rfl
@[simp] theorem presentDrain_device (b : Bank) : (s.presentDrain b).device = s.device := rfl
@[simp] theorem presentDrain_dom0 (b : Bank) : (s.presentDrain b).dom0 = s.dom0 := rfl
@[simp] theorem presentDrain_dom1 (b : Bank) : (s.presentDrain b).dom1 = s.dom1 := rfl
@[simp] theorem presentDrain_free (b : Bank) : (s.presentDrain b).free = s.free := rfl
@[simp] theorem presentDrain_held (b : Bank) : (s.presentDrain b).held = s.held := rfl
@[simp] theorem presentDrain_windows (b : Bank) : (s.presentDrain b).windows = s.windows := rfl
@[simp] theorem presentDrain_groups (b : Bank) : (s.presentDrain b).groups = s.groups := rfl
@[simp] theorem presentDrain_groupStates (b : Bank) : (s.presentDrain b).groupStates = s.groupStates := rfl
@[simp] theorem presentDrain_queue (b : Bank) : (s.presentDrain b).queue = s.queue := rfl
@[simp] theorem presentDrain_engine (b : Bank) : (s.presentDrain b).engine = s.engine := rfl
@[simp] theorem presentDrain_wp (b : Bank) : (s.presentDrain b).wp = s.wp := rfl
@[simp] theorem presentDrain_cp (b : Bank) : (s.presentDrain b).cp = s.cp := rfl
@[simp] theorem presentDrain_wpRead (b : Bank) : (s.presentDrain b).wpRead = s.wpRead := rfl
@[simp] theorem presentDrain_cpRead (b : Bank) : (s.presentDrain b).cpRead = s.cpRead := rfl
@[simp] theorem presentDrain_history (b : Bank) : (s.presentDrain b).history = s.history := rfl
@[simp] theorem presentDrain_serial (b : Bank) : (s.presentDrain b).serial = s.serial := rfl
@[simp] theorem presentDrain_events (b : Bank) : (s.presentDrain b).events = s.events := rfl
@[simp] theorem presentDrain_eventEnable (b : Bank) : (s.presentDrain b).eventEnable = s.eventEnable := rfl
@[simp] theorem presentDrain_devCounters (b : Bank) : (s.presentDrain b).devCounters = s.devCounters := rfl
@[simp] theorem presentDrain_tickDiv (b : Bank) : (s.presentDrain b).tickDiv = s.tickDiv := rfl
@[simp] theorem presentDrain_memTimeout (b : Bank) : (s.presentDrain b).memTimeout = s.memTimeout := rfl
@[simp] theorem presentDrain_time (b : Bank) : (s.presentDrain b).time = s.time := rfl
@[simp] theorem presentDrain_recValid (b : Bank) : (s.presentDrain b).recValid = s.recValid := rfl
@[simp] theorem presentDrain_recHeldLost (b : Bank) : (s.presentDrain b).recHeldLost = s.recHeldLost := rfl
@[simp] theorem presentDrain_link (b : Bank) : (s.presentDrain b).link = s.link := rfl
@[simp] theorem presentDrain_pending (b : Bank) : (s.presentDrain b).pending = s.pending := rfl
@[simp] theorem presentDrain_dom (b : Bank) (e : Dom) : (s.presentDrain b).dom e = s.dom e := by cases e <;> rfl

/-! ### endAccess -/

@[simp] theorem endAccess_resetN : (s.endAccess).resetN = s.resetN := rfl
@[simp] theorem endAccess_device : (s.endAccess).device = s.device := rfl
@[simp] theorem endAccess_dom0 : (s.endAccess).dom0 = s.dom0 := rfl
@[simp] theorem endAccess_dom1 : (s.endAccess).dom1 = s.dom1 := rfl
@[simp] theorem endAccess_free : (s.endAccess).free = s.free := rfl
@[simp] theorem endAccess_held : (s.endAccess).held = s.held := rfl
@[simp] theorem endAccess_windows : (s.endAccess).windows = s.windows := rfl
@[simp] theorem endAccess_groups : (s.endAccess).groups = s.groups := rfl
@[simp] theorem endAccess_groupStates : (s.endAccess).groupStates = s.groupStates := rfl
@[simp] theorem endAccess_queue : (s.endAccess).queue = s.queue := rfl
@[simp] theorem endAccess_engine : (s.endAccess).engine = s.engine := rfl
@[simp] theorem endAccess_wp : (s.endAccess).wp = s.wp := rfl
@[simp] theorem endAccess_cp : (s.endAccess).cp = s.cp := rfl
@[simp] theorem endAccess_wpRead : (s.endAccess).wpRead = s.wpRead := rfl
@[simp] theorem endAccess_cpRead : (s.endAccess).cpRead = s.cpRead := rfl
@[simp] theorem endAccess_history : (s.endAccess).history = s.history := rfl
@[simp] theorem endAccess_serial : (s.endAccess).serial = s.serial := rfl
@[simp] theorem endAccess_events : (s.endAccess).events = s.events := rfl
@[simp] theorem endAccess_eventEnable : (s.endAccess).eventEnable = s.eventEnable := rfl
@[simp] theorem endAccess_devCounters : (s.endAccess).devCounters = s.devCounters := rfl
@[simp] theorem endAccess_tickDiv : (s.endAccess).tickDiv = s.tickDiv := rfl
@[simp] theorem endAccess_memTimeout : (s.endAccess).memTimeout = s.memTimeout := rfl
@[simp] theorem endAccess_time : (s.endAccess).time = s.time := rfl
@[simp] theorem endAccess_recValid : (s.endAccess).recValid = s.recValid := rfl
@[simp] theorem endAccess_recHeldLost : (s.endAccess).recHeldLost = s.recHeldLost := rfl
@[simp] theorem endAccess_link : (s.endAccess).link = s.link := rfl
@[simp] theorem endAccess_pending : (s.endAccess).pending = s.pending := rfl
@[simp] theorem endAccess_dom (e : Dom) : (s.endAccess).dom e = s.dom e := by cases e <;> rfl

/-! ### closeGroups -/

@[simp] theorem closeGroups_resetN (d : Dom) : (s.closeGroups d).resetN = s.resetN := by simp only [State.closeGroups]
@[simp] theorem closeGroups_device (d : Dom) : (s.closeGroups d).device = s.device := by simp only [State.closeGroups]
@[simp] theorem closeGroups_dom0 (d : Dom) : (s.closeGroups d).dom0 = s.dom0 := by simp only [State.closeGroups]
@[simp] theorem closeGroups_dom1 (d : Dom) : (s.closeGroups d).dom1 = s.dom1 := by simp only [State.closeGroups]
@[simp] theorem closeGroups_free (d : Dom) : (s.closeGroups d).free = s.free := by simp only [State.closeGroups]
@[simp] theorem closeGroups_held (d : Dom) : (s.closeGroups d).held = s.held := by simp only [State.closeGroups]
@[simp] theorem closeGroups_windows (d : Dom) : (s.closeGroups d).windows = s.windows := by simp only [State.closeGroups]
@[simp] theorem closeGroups_groups (d : Dom) : (s.closeGroups d).groups = s.groups := by simp only [State.closeGroups]
@[simp] theorem closeGroups_queue (d : Dom) : (s.closeGroups d).queue = s.queue := by simp only [State.closeGroups]
@[simp] theorem closeGroups_engine (d : Dom) : (s.closeGroups d).engine = s.engine := by simp only [State.closeGroups]
@[simp] theorem closeGroups_arb (d : Dom) : (s.closeGroups d).arb = s.arb := by simp only [State.closeGroups]
@[simp] theorem closeGroups_wp (d : Dom) : (s.closeGroups d).wp = s.wp := by simp only [State.closeGroups]
@[simp] theorem closeGroups_cp (d : Dom) : (s.closeGroups d).cp = s.cp := by simp only [State.closeGroups]
@[simp] theorem closeGroups_wpRead (d : Dom) : (s.closeGroups d).wpRead = s.wpRead := by simp only [State.closeGroups]
@[simp] theorem closeGroups_cpRead (d : Dom) : (s.closeGroups d).cpRead = s.cpRead := by simp only [State.closeGroups]
@[simp] theorem closeGroups_history (d : Dom) : (s.closeGroups d).history = s.history := by simp only [State.closeGroups]
@[simp] theorem closeGroups_serial (d : Dom) : (s.closeGroups d).serial = s.serial := by simp only [State.closeGroups]
@[simp] theorem closeGroups_events (d : Dom) : (s.closeGroups d).events = s.events := by simp only [State.closeGroups]
@[simp] theorem closeGroups_eventEnable (d : Dom) : (s.closeGroups d).eventEnable = s.eventEnable := by simp only [State.closeGroups]
@[simp] theorem closeGroups_devCounters (d : Dom) : (s.closeGroups d).devCounters = s.devCounters := by simp only [State.closeGroups]
@[simp] theorem closeGroups_tickDiv (d : Dom) : (s.closeGroups d).tickDiv = s.tickDiv := by simp only [State.closeGroups]
@[simp] theorem closeGroups_memTimeout (d : Dom) : (s.closeGroups d).memTimeout = s.memTimeout := by simp only [State.closeGroups]
@[simp] theorem closeGroups_time (d : Dom) : (s.closeGroups d).time = s.time := by simp only [State.closeGroups]
@[simp] theorem closeGroups_recValid (d : Dom) : (s.closeGroups d).recValid = s.recValid := by simp only [State.closeGroups]
@[simp] theorem closeGroups_recHeldLost (d : Dom) : (s.closeGroups d).recHeldLost = s.recHeldLost := by simp only [State.closeGroups]
@[simp] theorem closeGroups_link (d : Dom) : (s.closeGroups d).link = s.link := by simp only [State.closeGroups]
@[simp] theorem closeGroups_pending (d : Dom) : (s.closeGroups d).pending = s.pending := by simp only [State.closeGroups]
@[simp] theorem closeGroups_dom (d : Dom) (e : Dom) : (s.closeGroups d).dom e = s.dom e := by cases e <;> simp only [State.dom, State.closeGroups]

/-! ### noteWrite -/

@[simp] theorem noteWrite_resetN (d : Dom) (a : Addr) : (s.noteWrite d a).resetN = s.resetN := by unfold State.noteWrite; split <;> rfl
@[simp] theorem noteWrite_device (d : Dom) (a : Addr) : (s.noteWrite d a).device = s.device := by unfold State.noteWrite; split <;> rfl
@[simp] theorem noteWrite_dom0 (d : Dom) (a : Addr) : (s.noteWrite d a).dom0 = s.dom0 := by unfold State.noteWrite; split <;> rfl
@[simp] theorem noteWrite_dom1 (d : Dom) (a : Addr) : (s.noteWrite d a).dom1 = s.dom1 := by unfold State.noteWrite; split <;> rfl
@[simp] theorem noteWrite_free (d : Dom) (a : Addr) : (s.noteWrite d a).free = s.free := by unfold State.noteWrite; split <;> rfl
@[simp] theorem noteWrite_held (d : Dom) (a : Addr) : (s.noteWrite d a).held = s.held := by unfold State.noteWrite; split <;> rfl
@[simp] theorem noteWrite_windows (d : Dom) (a : Addr) : (s.noteWrite d a).windows = s.windows := by unfold State.noteWrite; split <;> rfl
@[simp] theorem noteWrite_groups (d : Dom) (a : Addr) : (s.noteWrite d a).groups = s.groups := by unfold State.noteWrite; split <;> rfl
@[simp] theorem noteWrite_queue (d : Dom) (a : Addr) : (s.noteWrite d a).queue = s.queue := by unfold State.noteWrite; split <;> rfl
@[simp] theorem noteWrite_engine (d : Dom) (a : Addr) : (s.noteWrite d a).engine = s.engine := by unfold State.noteWrite; split <;> rfl
@[simp] theorem noteWrite_arb (d : Dom) (a : Addr) : (s.noteWrite d a).arb = s.arb := by unfold State.noteWrite; split <;> rfl
@[simp] theorem noteWrite_wp (d : Dom) (a : Addr) : (s.noteWrite d a).wp = s.wp := by unfold State.noteWrite; split <;> rfl
@[simp] theorem noteWrite_cp (d : Dom) (a : Addr) : (s.noteWrite d a).cp = s.cp := by unfold State.noteWrite; split <;> rfl
@[simp] theorem noteWrite_wpRead (d : Dom) (a : Addr) : (s.noteWrite d a).wpRead = s.wpRead := by unfold State.noteWrite; split <;> rfl
@[simp] theorem noteWrite_cpRead (d : Dom) (a : Addr) : (s.noteWrite d a).cpRead = s.cpRead := by unfold State.noteWrite; split <;> rfl
@[simp] theorem noteWrite_history (d : Dom) (a : Addr) : (s.noteWrite d a).history = s.history := by unfold State.noteWrite; split <;> rfl
@[simp] theorem noteWrite_serial (d : Dom) (a : Addr) : (s.noteWrite d a).serial = s.serial := by unfold State.noteWrite; split <;> rfl
@[simp] theorem noteWrite_events (d : Dom) (a : Addr) : (s.noteWrite d a).events = s.events := by unfold State.noteWrite; split <;> rfl
@[simp] theorem noteWrite_eventEnable (d : Dom) (a : Addr) : (s.noteWrite d a).eventEnable = s.eventEnable := by unfold State.noteWrite; split <;> rfl
@[simp] theorem noteWrite_devCounters (d : Dom) (a : Addr) : (s.noteWrite d a).devCounters = s.devCounters := by unfold State.noteWrite; split <;> rfl
@[simp] theorem noteWrite_tickDiv (d : Dom) (a : Addr) : (s.noteWrite d a).tickDiv = s.tickDiv := by unfold State.noteWrite; split <;> rfl
@[simp] theorem noteWrite_memTimeout (d : Dom) (a : Addr) : (s.noteWrite d a).memTimeout = s.memTimeout := by unfold State.noteWrite; split <;> rfl
@[simp] theorem noteWrite_time (d : Dom) (a : Addr) : (s.noteWrite d a).time = s.time := by unfold State.noteWrite; split <;> rfl
@[simp] theorem noteWrite_recValid (d : Dom) (a : Addr) : (s.noteWrite d a).recValid = s.recValid := by unfold State.noteWrite; split <;> rfl
@[simp] theorem noteWrite_recHeldLost (d : Dom) (a : Addr) : (s.noteWrite d a).recHeldLost = s.recHeldLost := by unfold State.noteWrite; split <;> rfl
@[simp] theorem noteWrite_link (d : Dom) (a : Addr) : (s.noteWrite d a).link = s.link := by unfold State.noteWrite; split <;> rfl
@[simp] theorem noteWrite_pending (d : Dom) (a : Addr) : (s.noteWrite d a).pending = s.pending := by unfold State.noteWrite; split <;> rfl
@[simp] theorem noteWrite_dom (d : Dom) (a : Addr) (e : Dom) : (s.noteWrite d a).dom e = s.dom e := by cases e <;> simp [State.dom]

/-! ### pushHistory -/

@[simp] theorem pushHistory_resetN (r : HistoryRecord) : (s.pushHistory r).resetN = s.resetN := rfl
@[simp] theorem pushHistory_device (r : HistoryRecord) : (s.pushHistory r).device = s.device := rfl
@[simp] theorem pushHistory_dom0 (r : HistoryRecord) : (s.pushHistory r).dom0 = s.dom0 := rfl
@[simp] theorem pushHistory_dom1 (r : HistoryRecord) : (s.pushHistory r).dom1 = s.dom1 := rfl
@[simp] theorem pushHistory_free (r : HistoryRecord) : (s.pushHistory r).free = s.free := rfl
@[simp] theorem pushHistory_held (r : HistoryRecord) : (s.pushHistory r).held = s.held := rfl
@[simp] theorem pushHistory_windows (r : HistoryRecord) : (s.pushHistory r).windows = s.windows := rfl
@[simp] theorem pushHistory_groups (r : HistoryRecord) : (s.pushHistory r).groups = s.groups := rfl
@[simp] theorem pushHistory_groupStates (r : HistoryRecord) : (s.pushHistory r).groupStates = s.groupStates := rfl
@[simp] theorem pushHistory_queue (r : HistoryRecord) : (s.pushHistory r).queue = s.queue := rfl
@[simp] theorem pushHistory_engine (r : HistoryRecord) : (s.pushHistory r).engine = s.engine := rfl
@[simp] theorem pushHistory_arb (r : HistoryRecord) : (s.pushHistory r).arb = s.arb := rfl
@[simp] theorem pushHistory_wp (r : HistoryRecord) : (s.pushHistory r).wp = s.wp := rfl
@[simp] theorem pushHistory_cp (r : HistoryRecord) : (s.pushHistory r).cp = s.cp := rfl
@[simp] theorem pushHistory_wpRead (r : HistoryRecord) : (s.pushHistory r).wpRead = s.wpRead := rfl
@[simp] theorem pushHistory_cpRead (r : HistoryRecord) : (s.pushHistory r).cpRead = s.cpRead := rfl
@[simp] theorem pushHistory_events (r : HistoryRecord) : (s.pushHistory r).events = s.events := rfl
@[simp] theorem pushHistory_eventEnable (r : HistoryRecord) : (s.pushHistory r).eventEnable = s.eventEnable := rfl
@[simp] theorem pushHistory_devCounters (r : HistoryRecord) : (s.pushHistory r).devCounters = s.devCounters := rfl
@[simp] theorem pushHistory_tickDiv (r : HistoryRecord) : (s.pushHistory r).tickDiv = s.tickDiv := rfl
@[simp] theorem pushHistory_memTimeout (r : HistoryRecord) : (s.pushHistory r).memTimeout = s.memTimeout := rfl
@[simp] theorem pushHistory_time (r : HistoryRecord) : (s.pushHistory r).time = s.time := rfl
@[simp] theorem pushHistory_recValid (r : HistoryRecord) : (s.pushHistory r).recValid = s.recValid := rfl
@[simp] theorem pushHistory_recHeldLost (r : HistoryRecord) : (s.pushHistory r).recHeldLost = s.recHeldLost := rfl
@[simp] theorem pushHistory_link (r : HistoryRecord) : (s.pushHistory r).link = s.link := rfl
@[simp] theorem pushHistory_pending (r : HistoryRecord) : (s.pushHistory r).pending = s.pending := rfl
@[simp] theorem pushHistory_dom (r : HistoryRecord) (e : Dom) : (s.pushHistory r).dom e = s.dom e := by cases e <;> rfl

/-! ### updRecord -/

@[simp] theorem updRecord_resetN (n : Element) (f : HistoryRecord → HistoryRecord) : (s.updRecord n f).resetN = s.resetN := rfl
@[simp] theorem updRecord_device (n : Element) (f : HistoryRecord → HistoryRecord) : (s.updRecord n f).device = s.device := rfl
@[simp] theorem updRecord_dom0 (n : Element) (f : HistoryRecord → HistoryRecord) : (s.updRecord n f).dom0 = s.dom0 := rfl
@[simp] theorem updRecord_dom1 (n : Element) (f : HistoryRecord → HistoryRecord) : (s.updRecord n f).dom1 = s.dom1 := rfl
@[simp] theorem updRecord_free (n : Element) (f : HistoryRecord → HistoryRecord) : (s.updRecord n f).free = s.free := rfl
@[simp] theorem updRecord_held (n : Element) (f : HistoryRecord → HistoryRecord) : (s.updRecord n f).held = s.held := rfl
@[simp] theorem updRecord_windows (n : Element) (f : HistoryRecord → HistoryRecord) : (s.updRecord n f).windows = s.windows := rfl
@[simp] theorem updRecord_groups (n : Element) (f : HistoryRecord → HistoryRecord) : (s.updRecord n f).groups = s.groups := rfl
@[simp] theorem updRecord_groupStates (n : Element) (f : HistoryRecord → HistoryRecord) : (s.updRecord n f).groupStates = s.groupStates := rfl
@[simp] theorem updRecord_queue (n : Element) (f : HistoryRecord → HistoryRecord) : (s.updRecord n f).queue = s.queue := rfl
@[simp] theorem updRecord_engine (n : Element) (f : HistoryRecord → HistoryRecord) : (s.updRecord n f).engine = s.engine := rfl
@[simp] theorem updRecord_arb (n : Element) (f : HistoryRecord → HistoryRecord) : (s.updRecord n f).arb = s.arb := rfl
@[simp] theorem updRecord_wp (n : Element) (f : HistoryRecord → HistoryRecord) : (s.updRecord n f).wp = s.wp := rfl
@[simp] theorem updRecord_cp (n : Element) (f : HistoryRecord → HistoryRecord) : (s.updRecord n f).cp = s.cp := rfl
@[simp] theorem updRecord_wpRead (n : Element) (f : HistoryRecord → HistoryRecord) : (s.updRecord n f).wpRead = s.wpRead := rfl
@[simp] theorem updRecord_cpRead (n : Element) (f : HistoryRecord → HistoryRecord) : (s.updRecord n f).cpRead = s.cpRead := rfl
@[simp] theorem updRecord_serial (n : Element) (f : HistoryRecord → HistoryRecord) : (s.updRecord n f).serial = s.serial := rfl
@[simp] theorem updRecord_events (n : Element) (f : HistoryRecord → HistoryRecord) : (s.updRecord n f).events = s.events := rfl
@[simp] theorem updRecord_eventEnable (n : Element) (f : HistoryRecord → HistoryRecord) : (s.updRecord n f).eventEnable = s.eventEnable := rfl
@[simp] theorem updRecord_devCounters (n : Element) (f : HistoryRecord → HistoryRecord) : (s.updRecord n f).devCounters = s.devCounters := rfl
@[simp] theorem updRecord_tickDiv (n : Element) (f : HistoryRecord → HistoryRecord) : (s.updRecord n f).tickDiv = s.tickDiv := rfl
@[simp] theorem updRecord_memTimeout (n : Element) (f : HistoryRecord → HistoryRecord) : (s.updRecord n f).memTimeout = s.memTimeout := rfl
@[simp] theorem updRecord_time (n : Element) (f : HistoryRecord → HistoryRecord) : (s.updRecord n f).time = s.time := rfl
@[simp] theorem updRecord_recValid (n : Element) (f : HistoryRecord → HistoryRecord) : (s.updRecord n f).recValid = s.recValid := rfl
@[simp] theorem updRecord_recHeldLost (n : Element) (f : HistoryRecord → HistoryRecord) : (s.updRecord n f).recHeldLost = s.recHeldLost := rfl
@[simp] theorem updRecord_link (n : Element) (f : HistoryRecord → HistoryRecord) : (s.updRecord n f).link = s.link := rfl
@[simp] theorem updRecord_pending (n : Element) (f : HistoryRecord → HistoryRecord) : (s.updRecord n f).pending = s.pending := rfl
@[simp] theorem updRecord_dom (n : Element) (f : HistoryRecord → HistoryRecord) (e : Dom) : (s.updRecord n f).dom e = s.dom e := by cases e <;> rfl

/-! ### fenceRead -/

@[simp] theorem fenceRead_resetN (d : Dom) : (s.fenceRead d).resetN = s.resetN := rfl
@[simp] theorem fenceRead_device (d : Dom) : (s.fenceRead d).device = s.device := rfl
@[simp] theorem fenceRead_dom0 (d : Dom) : (s.fenceRead d).dom0 = s.dom0 := rfl
@[simp] theorem fenceRead_dom1 (d : Dom) : (s.fenceRead d).dom1 = s.dom1 := rfl
@[simp] theorem fenceRead_free (d : Dom) : (s.fenceRead d).free = s.free := rfl
@[simp] theorem fenceRead_held (d : Dom) : (s.fenceRead d).held = s.held := rfl
@[simp] theorem fenceRead_windows (d : Dom) : (s.fenceRead d).windows = s.windows := rfl
@[simp] theorem fenceRead_groups (d : Dom) : (s.fenceRead d).groups = s.groups := rfl
@[simp] theorem fenceRead_groupStates (d : Dom) : (s.fenceRead d).groupStates = s.groupStates := rfl
@[simp] theorem fenceRead_queue (d : Dom) : (s.fenceRead d).queue = s.queue := rfl
@[simp] theorem fenceRead_engine (d : Dom) : (s.fenceRead d).engine = s.engine := rfl
@[simp] theorem fenceRead_arb (d : Dom) : (s.fenceRead d).arb = s.arb := rfl
@[simp] theorem fenceRead_wp (d : Dom) : (s.fenceRead d).wp = s.wp := rfl
@[simp] theorem fenceRead_cp (d : Dom) : (s.fenceRead d).cp = s.cp := rfl
@[simp] theorem fenceRead_wpRead (d : Dom) : (s.fenceRead d).wpRead = s.wpRead := rfl
@[simp] theorem fenceRead_history (d : Dom) : (s.fenceRead d).history = s.history := rfl
@[simp] theorem fenceRead_serial (d : Dom) : (s.fenceRead d).serial = s.serial := rfl
@[simp] theorem fenceRead_events (d : Dom) : (s.fenceRead d).events = s.events := rfl
@[simp] theorem fenceRead_eventEnable (d : Dom) : (s.fenceRead d).eventEnable = s.eventEnable := rfl
@[simp] theorem fenceRead_devCounters (d : Dom) : (s.fenceRead d).devCounters = s.devCounters := rfl
@[simp] theorem fenceRead_tickDiv (d : Dom) : (s.fenceRead d).tickDiv = s.tickDiv := rfl
@[simp] theorem fenceRead_memTimeout (d : Dom) : (s.fenceRead d).memTimeout = s.memTimeout := rfl
@[simp] theorem fenceRead_time (d : Dom) : (s.fenceRead d).time = s.time := rfl
@[simp] theorem fenceRead_recValid (d : Dom) : (s.fenceRead d).recValid = s.recValid := rfl
@[simp] theorem fenceRead_recHeldLost (d : Dom) : (s.fenceRead d).recHeldLost = s.recHeldLost := rfl
@[simp] theorem fenceRead_link (d : Dom) : (s.fenceRead d).link = s.link := rfl
@[simp] theorem fenceRead_pending (d : Dom) : (s.fenceRead d).pending = s.pending := rfl
@[simp] theorem fenceRead_dom (d : Dom) (e : Dom) : (s.fenceRead d).dom e = s.dom e := by cases e <;> rfl

/-! ### heldToFlush -/

@[simp] theorem heldToFlush_resetN (d : Dom) : (s.heldToFlush d).resetN = s.resetN := rfl
@[simp] theorem heldToFlush_device (d : Dom) : (s.heldToFlush d).device = s.device := rfl
@[simp] theorem heldToFlush_dom0 (d : Dom) : (s.heldToFlush d).dom0 = s.dom0 := rfl
@[simp] theorem heldToFlush_dom1 (d : Dom) : (s.heldToFlush d).dom1 = s.dom1 := rfl
@[simp] theorem heldToFlush_free (d : Dom) : (s.heldToFlush d).free = s.free := rfl
@[simp] theorem heldToFlush_windows (d : Dom) : (s.heldToFlush d).windows = s.windows := rfl
@[simp] theorem heldToFlush_groups (d : Dom) : (s.heldToFlush d).groups = s.groups := rfl
@[simp] theorem heldToFlush_groupStates (d : Dom) : (s.heldToFlush d).groupStates = s.groupStates := rfl
@[simp] theorem heldToFlush_queue (d : Dom) : (s.heldToFlush d).queue = s.queue := rfl
@[simp] theorem heldToFlush_engine (d : Dom) : (s.heldToFlush d).engine = s.engine := rfl
@[simp] theorem heldToFlush_arb (d : Dom) : (s.heldToFlush d).arb = s.arb := rfl
@[simp] theorem heldToFlush_wp (d : Dom) : (s.heldToFlush d).wp = s.wp := rfl
@[simp] theorem heldToFlush_cp (d : Dom) : (s.heldToFlush d).cp = s.cp := rfl
@[simp] theorem heldToFlush_wpRead (d : Dom) : (s.heldToFlush d).wpRead = s.wpRead := rfl
@[simp] theorem heldToFlush_cpRead (d : Dom) : (s.heldToFlush d).cpRead = s.cpRead := rfl
@[simp] theorem heldToFlush_history (d : Dom) : (s.heldToFlush d).history = s.history := rfl
@[simp] theorem heldToFlush_serial (d : Dom) : (s.heldToFlush d).serial = s.serial := rfl
@[simp] theorem heldToFlush_events (d : Dom) : (s.heldToFlush d).events = s.events := rfl
@[simp] theorem heldToFlush_eventEnable (d : Dom) : (s.heldToFlush d).eventEnable = s.eventEnable := rfl
@[simp] theorem heldToFlush_devCounters (d : Dom) : (s.heldToFlush d).devCounters = s.devCounters := rfl
@[simp] theorem heldToFlush_tickDiv (d : Dom) : (s.heldToFlush d).tickDiv = s.tickDiv := rfl
@[simp] theorem heldToFlush_memTimeout (d : Dom) : (s.heldToFlush d).memTimeout = s.memTimeout := rfl
@[simp] theorem heldToFlush_time (d : Dom) : (s.heldToFlush d).time = s.time := rfl
@[simp] theorem heldToFlush_recValid (d : Dom) : (s.heldToFlush d).recValid = s.recValid := rfl
@[simp] theorem heldToFlush_recHeldLost (d : Dom) : (s.heldToFlush d).recHeldLost = s.recHeldLost := rfl
@[simp] theorem heldToFlush_link (d : Dom) : (s.heldToFlush d).link = s.link := rfl
@[simp] theorem heldToFlush_pending (d : Dom) : (s.heldToFlush d).pending = s.pending := rfl
@[simp] theorem heldToFlush_dom (d : Dom) (e : Dom) : (s.heldToFlush d).dom e = s.dom e := by cases e <;> rfl

/-! ### heldToRestart -/

@[simp] theorem heldToRestart_resetN : (s.heldToRestart).resetN = s.resetN := rfl
@[simp] theorem heldToRestart_device : (s.heldToRestart).device = s.device := rfl
@[simp] theorem heldToRestart_dom0 : (s.heldToRestart).dom0 = s.dom0 := rfl
@[simp] theorem heldToRestart_dom1 : (s.heldToRestart).dom1 = s.dom1 := rfl
@[simp] theorem heldToRestart_free : (s.heldToRestart).free = s.free := rfl
@[simp] theorem heldToRestart_windows : (s.heldToRestart).windows = s.windows := rfl
@[simp] theorem heldToRestart_groups : (s.heldToRestart).groups = s.groups := rfl
@[simp] theorem heldToRestart_groupStates : (s.heldToRestart).groupStates = s.groupStates := rfl
@[simp] theorem heldToRestart_queue : (s.heldToRestart).queue = s.queue := rfl
@[simp] theorem heldToRestart_engine : (s.heldToRestart).engine = s.engine := rfl
@[simp] theorem heldToRestart_arb : (s.heldToRestart).arb = s.arb := rfl
@[simp] theorem heldToRestart_wp : (s.heldToRestart).wp = s.wp := rfl
@[simp] theorem heldToRestart_cp : (s.heldToRestart).cp = s.cp := rfl
@[simp] theorem heldToRestart_wpRead : (s.heldToRestart).wpRead = s.wpRead := rfl
@[simp] theorem heldToRestart_cpRead : (s.heldToRestart).cpRead = s.cpRead := rfl
@[simp] theorem heldToRestart_history : (s.heldToRestart).history = s.history := rfl
@[simp] theorem heldToRestart_serial : (s.heldToRestart).serial = s.serial := rfl
@[simp] theorem heldToRestart_events : (s.heldToRestart).events = s.events := rfl
@[simp] theorem heldToRestart_eventEnable : (s.heldToRestart).eventEnable = s.eventEnable := rfl
@[simp] theorem heldToRestart_devCounters : (s.heldToRestart).devCounters = s.devCounters := rfl
@[simp] theorem heldToRestart_tickDiv : (s.heldToRestart).tickDiv = s.tickDiv := rfl
@[simp] theorem heldToRestart_memTimeout : (s.heldToRestart).memTimeout = s.memTimeout := rfl
@[simp] theorem heldToRestart_time : (s.heldToRestart).time = s.time := rfl
@[simp] theorem heldToRestart_recValid : (s.heldToRestart).recValid = s.recValid := rfl
@[simp] theorem heldToRestart_recHeldLost : (s.heldToRestart).recHeldLost = s.recHeldLost := rfl
@[simp] theorem heldToRestart_link : (s.heldToRestart).link = s.link := rfl
@[simp] theorem heldToRestart_pending : (s.heldToRestart).pending = s.pending := rfl
@[simp] theorem heldToRestart_dom (e : Dom) : (s.heldToRestart).dom e = s.dom e := by cases e <;> rfl

/-! ### shiftFrame -/

@[simp] theorem shiftFrame_resetN (f : Frame) : (s.shiftFrame f).resetN = s.resetN := by simp only [State.shiftFrame]
@[simp] theorem shiftFrame_device (f : Frame) : (s.shiftFrame f).device = s.device := by simp only [State.shiftFrame]
@[simp] theorem shiftFrame_dom0 (f : Frame) : (s.shiftFrame f).dom0 = s.dom0 := by simp only [State.shiftFrame]
@[simp] theorem shiftFrame_dom1 (f : Frame) : (s.shiftFrame f).dom1 = s.dom1 := by simp only [State.shiftFrame]
@[simp] theorem shiftFrame_free (f : Frame) : (s.shiftFrame f).free = s.free := by simp only [State.shiftFrame]
@[simp] theorem shiftFrame_held (f : Frame) : (s.shiftFrame f).held = s.held := by simp only [State.shiftFrame]
@[simp] theorem shiftFrame_windows (f : Frame) : (s.shiftFrame f).windows = s.windows := by simp only [State.shiftFrame]
@[simp] theorem shiftFrame_groups (f : Frame) : (s.shiftFrame f).groups = s.groups := by simp only [State.shiftFrame]
@[simp] theorem shiftFrame_groupStates (f : Frame) : (s.shiftFrame f).groupStates = s.groupStates := by simp only [State.shiftFrame]
@[simp] theorem shiftFrame_queue (f : Frame) : (s.shiftFrame f).queue = s.queue := by simp only [State.shiftFrame]
@[simp] theorem shiftFrame_engine (f : Frame) : (s.shiftFrame f).engine = s.engine := by simp only [State.shiftFrame]
@[simp] theorem shiftFrame_arb (f : Frame) : (s.shiftFrame f).arb = s.arb := by simp only [State.shiftFrame]
@[simp] theorem shiftFrame_wp (f : Frame) : (s.shiftFrame f).wp = s.wp := by simp only [State.shiftFrame]
@[simp] theorem shiftFrame_cp (f : Frame) : (s.shiftFrame f).cp = s.cp := by simp only [State.shiftFrame]
@[simp] theorem shiftFrame_wpRead (f : Frame) : (s.shiftFrame f).wpRead = s.wpRead := by simp only [State.shiftFrame]
@[simp] theorem shiftFrame_cpRead (f : Frame) : (s.shiftFrame f).cpRead = s.cpRead := by simp only [State.shiftFrame]
@[simp] theorem shiftFrame_history (f : Frame) : (s.shiftFrame f).history = s.history := by simp only [State.shiftFrame]
@[simp] theorem shiftFrame_serial (f : Frame) : (s.shiftFrame f).serial = s.serial := by simp only [State.shiftFrame]
@[simp] theorem shiftFrame_events (f : Frame) : (s.shiftFrame f).events = s.events := by simp only [State.shiftFrame]
@[simp] theorem shiftFrame_eventEnable (f : Frame) : (s.shiftFrame f).eventEnable = s.eventEnable := by simp only [State.shiftFrame]
@[simp] theorem shiftFrame_devCounters (f : Frame) : (s.shiftFrame f).devCounters = s.devCounters := by simp only [State.shiftFrame]
@[simp] theorem shiftFrame_tickDiv (f : Frame) : (s.shiftFrame f).tickDiv = s.tickDiv := by simp only [State.shiftFrame]
@[simp] theorem shiftFrame_memTimeout (f : Frame) : (s.shiftFrame f).memTimeout = s.memTimeout := by simp only [State.shiftFrame]
@[simp] theorem shiftFrame_time (f : Frame) : (s.shiftFrame f).time = s.time := by simp only [State.shiftFrame]
@[simp] theorem shiftFrame_recValid (f : Frame) : (s.shiftFrame f).recValid = s.recValid := by simp only [State.shiftFrame]
@[simp] theorem shiftFrame_recHeldLost (f : Frame) : (s.shiftFrame f).recHeldLost = s.recHeldLost := by simp only [State.shiftFrame]
@[simp] theorem shiftFrame_pending (f : Frame) : (s.shiftFrame f).pending = s.pending := by simp only [State.shiftFrame]
@[simp] theorem shiftFrame_dom (f : Frame) (e : Dom) : (s.shiftFrame f).dom e = s.dom e := by cases e <;> simp only [State.dom, State.shiftFrame]

/-! ### respond -/

@[simp] theorem respond_resetN (code tag : Byte) (r : Reply) : (s.respond code tag r).resetN = s.resetN := by simp only [State.respond]
@[simp] theorem respond_device (code tag : Byte) (r : Reply) : (s.respond code tag r).device = s.device := by simp only [State.respond]
@[simp] theorem respond_dom0 (code tag : Byte) (r : Reply) : (s.respond code tag r).dom0 = s.dom0 := by simp only [State.respond]
@[simp] theorem respond_dom1 (code tag : Byte) (r : Reply) : (s.respond code tag r).dom1 = s.dom1 := by simp only [State.respond]
@[simp] theorem respond_free (code tag : Byte) (r : Reply) : (s.respond code tag r).free = s.free := by simp only [State.respond]
@[simp] theorem respond_held (code tag : Byte) (r : Reply) : (s.respond code tag r).held = s.held := by simp only [State.respond]
@[simp] theorem respond_windows (code tag : Byte) (r : Reply) : (s.respond code tag r).windows = s.windows := by simp only [State.respond]
@[simp] theorem respond_groups (code tag : Byte) (r : Reply) : (s.respond code tag r).groups = s.groups := by simp only [State.respond]
@[simp] theorem respond_groupStates (code tag : Byte) (r : Reply) : (s.respond code tag r).groupStates = s.groupStates := by simp only [State.respond]
@[simp] theorem respond_queue (code tag : Byte) (r : Reply) : (s.respond code tag r).queue = s.queue := by simp only [State.respond]
@[simp] theorem respond_engine (code tag : Byte) (r : Reply) : (s.respond code tag r).engine = s.engine := by simp only [State.respond]
@[simp] theorem respond_arb (code tag : Byte) (r : Reply) : (s.respond code tag r).arb = s.arb := by simp only [State.respond]
@[simp] theorem respond_wp (code tag : Byte) (r : Reply) : (s.respond code tag r).wp = s.wp := by simp only [State.respond]
@[simp] theorem respond_cp (code tag : Byte) (r : Reply) : (s.respond code tag r).cp = s.cp := by simp only [State.respond]
@[simp] theorem respond_wpRead (code tag : Byte) (r : Reply) : (s.respond code tag r).wpRead = s.wpRead := by simp only [State.respond]
@[simp] theorem respond_cpRead (code tag : Byte) (r : Reply) : (s.respond code tag r).cpRead = s.cpRead := by simp only [State.respond]
@[simp] theorem respond_history (code tag : Byte) (r : Reply) : (s.respond code tag r).history = s.history := by simp only [State.respond]
@[simp] theorem respond_serial (code tag : Byte) (r : Reply) : (s.respond code tag r).serial = s.serial := by simp only [State.respond]
@[simp] theorem respond_events (code tag : Byte) (r : Reply) : (s.respond code tag r).events = s.events := by simp only [State.respond]
@[simp] theorem respond_eventEnable (code tag : Byte) (r : Reply) : (s.respond code tag r).eventEnable = s.eventEnable := by simp only [State.respond]
@[simp] theorem respond_devCounters (code tag : Byte) (r : Reply) : (s.respond code tag r).devCounters = s.devCounters := by simp only [State.respond]
@[simp] theorem respond_tickDiv (code tag : Byte) (r : Reply) : (s.respond code tag r).tickDiv = s.tickDiv := by simp only [State.respond]
@[simp] theorem respond_memTimeout (code tag : Byte) (r : Reply) : (s.respond code tag r).memTimeout = s.memTimeout := by simp only [State.respond]
@[simp] theorem respond_time (code tag : Byte) (r : Reply) : (s.respond code tag r).time = s.time := by simp only [State.respond]
@[simp] theorem respond_recValid (code tag : Byte) (r : Reply) : (s.respond code tag r).recValid = s.recValid := by simp only [State.respond]
@[simp] theorem respond_recHeldLost (code tag : Byte) (r : Reply) : (s.respond code tag r).recHeldLost = s.recHeldLost := by simp only [State.respond]
@[simp] theorem respond_pending (code tag : Byte) (r : Reply) : (s.respond code tag r).pending = s.pending := by simp only [State.respond]
@[simp] theorem respond_dom (code tag : Byte) (r : Reply) (e : Dom) : (s.respond code tag r).dom e = s.dom e := by cases e <;> simp only [State.dom, State.respond]

/-! ### goOff -/

@[simp] theorem goOff_resetN (d : Dom) : (s.goOff d).resetN = s.resetN := by cases d <;> rfl
@[simp] theorem goOff_device (d : Dom) : (s.goOff d).device = s.device := by cases d <;> rfl
@[simp] theorem goOff_free (d : Dom) : (s.goOff d).free = s.free := by cases d <;> rfl
@[simp] theorem goOff_held (d : Dom) : (s.goOff d).held = s.held := by cases d <;> rfl
@[simp] theorem goOff_windows (d : Dom) : (s.goOff d).windows = s.windows := by cases d <;> rfl
@[simp] theorem goOff_groups (d : Dom) : (s.goOff d).groups = s.groups := by cases d <;> rfl
@[simp] theorem goOff_groupStates (d : Dom) : (s.goOff d).groupStates = s.groupStates := by cases d <;> rfl
@[simp] theorem goOff_queue (d : Dom) : (s.goOff d).queue = s.queue := by cases d <;> rfl
@[simp] theorem goOff_engine (d : Dom) : (s.goOff d).engine = s.engine := by cases d <;> rfl
@[simp] theorem goOff_arb (d : Dom) : (s.goOff d).arb = s.arb := by cases d <;> rfl
@[simp] theorem goOff_wp (d : Dom) : (s.goOff d).wp = s.wp := by cases d <;> rfl
@[simp] theorem goOff_cp (d : Dom) : (s.goOff d).cp = s.cp := by cases d <;> rfl
@[simp] theorem goOff_wpRead (d : Dom) : (s.goOff d).wpRead = s.wpRead := by cases d <;> rfl
@[simp] theorem goOff_cpRead (d : Dom) : (s.goOff d).cpRead = s.cpRead := by cases d <;> rfl
@[simp] theorem goOff_history (d : Dom) : (s.goOff d).history = s.history := by cases d <;> rfl
@[simp] theorem goOff_serial (d : Dom) : (s.goOff d).serial = s.serial := by cases d <;> rfl
@[simp] theorem goOff_events (d : Dom) : (s.goOff d).events = s.events := by cases d <;> rfl
@[simp] theorem goOff_eventEnable (d : Dom) : (s.goOff d).eventEnable = s.eventEnable := by cases d <;> rfl
@[simp] theorem goOff_devCounters (d : Dom) : (s.goOff d).devCounters = s.devCounters := by cases d <;> rfl
@[simp] theorem goOff_tickDiv (d : Dom) : (s.goOff d).tickDiv = s.tickDiv := by cases d <;> rfl
@[simp] theorem goOff_memTimeout (d : Dom) : (s.goOff d).memTimeout = s.memTimeout := by cases d <;> rfl
@[simp] theorem goOff_time (d : Dom) : (s.goOff d).time = s.time := by cases d <;> rfl
@[simp] theorem goOff_recValid (d : Dom) : (s.goOff d).recValid = s.recValid := by cases d <;> rfl
@[simp] theorem goOff_recHeldLost (d : Dom) : (s.goOff d).recHeldLost = s.recHeldLost := by cases d <;> rfl
@[simp] theorem goOff_link (d : Dom) : (s.goOff d).link = s.link := by cases d <;> rfl
@[simp] theorem goOff_pending (d : Dom) : (s.goOff d).pending = s.pending := by cases d <;> rfl

/-! ### What the counters and the events take -/

theorem bump_dom (d e : Dom) (c : DomCounter) (n : Nat) :
    (s.bump d c n).dom e =
      if e = d then { s.dom d with counters := (s.dom d).counters.set c.idx (satAdd (s.dom d).counters[c.idx] n) }
      else s.dom e := by
  cases d <;> cases e <;> rfl

/-- The counters' indices tell them apart (Table 11.2). -/
theorem DomCounter.idx_inj {c c' : DomCounter} : c.idx = c'.idx ↔ c = c' := by
  cases c <;> cases c' <;> decide

/-- The offsets of a domain's events tell them apart (Table 9.1). -/
theorem DomEvent.offset_inj {e e' : DomEvent} : e.offset = e'.offset ↔ e = e' := by
  cases e <;> cases e' <;> decide

/-- The events' indices tell them apart (Table 9.1). -/
theorem Event.idx_inj {e e' : Event} : e.idx = e'.idx ↔ e = e' := by
  constructor
  · intro h
    have hv : (e.idx : Nat) = e'.idx := congrArg Fin.val h
    rcases e with ⟨d, e⟩ | _ | _ <;> rcases e' with ⟨d', e'⟩ | _ | _ <;>
      (try cases d) <;> (try cases d') <;> simp only [Event.idx] at hv <;>
      first
      | (exfalso; omega)
      | rfl
      | (have he : e.offset = e'.offset := Fin.ext (by omega)
         rw [DomEvent.offset_inj.1 he])
  · rintro rfl; rfl

/-- A bump raises the one counter it names (R168). -/
theorem bump_counter (d d' : Dom) (c c' : DomCounter) (n : Nat) :
    (s.bump d c n).counter d' c' = if d' = d ∧ c' = c then satAdd (s.counter d c) n else s.counter d' c' := by
  unfold State.counter
  rw [bump_dom]
  by_cases hd : d' = d
  · subst hd
    by_cases hc : c' = c
    · subst hc; simp
    · have : (c.idx : Nat) ≠ c'.idx := fun h => hc (DomCounter.idx_inj.1 (Fin.ext h)).symm
      simp [hc, this]
  · simp [hd]

/-- An occurrence changes the one event record it names (R141). -/
theorem raise_event (e e' : Event) :
    (s.raise e).event e' = if e' = e then (s.event e).occur else s.event e' := by
  unfold State.event State.raise
  by_cases h : e' = e
  · subst h; simp
  · have : (e.idx : Nat) ≠ e'.idx := fun k => h (Event.idx_inj.1 (Fin.ext k)).symm
    simp [h, this]

end Sys2Proof.Machine
end

