-- ==== Sys2Proof/Laws/Instants.lean ====
section
/-! SUPPORT. What the part's own instants can be, said once, and the induction principle of `settle`. -/

namespace Sys2Proof.Machine

variable {s t : State} {h : Hold}

/-! ### When each instant is taken, and what it answers -/

theorem tryPlace_eq_some : s.tryPlace = some t ↔
    ∃ h, s.held = some h ∧ s.resetN = true ∧ h.reason = .space ∧ s.hasRoom h.dom = true ∧ t = s.placeHeld h := by
  unfold State.tryPlace
  cases hh : s.held with
  | none => simp
  | some h =>
    simp only [Option.some.injEq, exists_eq_left', Option.ite_none_right_eq_some, Bool.and_eq_true, decide_eq_true_eq,
      and_assoc, eq_comm (a := t)]

theorem tryDrainEnd_eq_some : s.tryDrainEnd = some t ↔
    ∃ e rest, s.queue = e :: rest ∧ s.resetN = true ∧ e.phase = .draining ∧ (s.dom e.dom).drainBank = [] ∧
      t = s.endDrain e rest := by
  unfold State.tryDrainEnd
  cases hq : s.queue with
  | nil => simp
  | cons e rest =>
    simp only [List.cons.injEq, Option.some.injEq, Option.ite_none_right_eq_some, Bool.and_eq_true,
      decide_eq_true_eq, List.isEmpty_iff, and_assoc, eq_comm (a := t)]
    constructor
    · exact fun h => ⟨e, rest, rfl, rfl, h⟩
    · rintro ⟨_, _, rfl, rfl, h⟩; exact h

theorem tryCommit_eq_some {d : Dom} : s.tryCommit d = some t ↔
    ∃ b g l, (s.dom d).sched = .settle b g l ∧ s.resetN = true ∧ s.commitCondition d b = true ∧ t = s.commit d b := by
  unfold State.tryCommit
  cases hs : (s.dom d).sched with
  | idle => simp
  | drainWait b => simp
  | settle b g l =>
    simp only [Option.ite_none_right_eq_some, Bool.and_eq_true, Option.some.injEq, and_assoc, eq_comm (a := t)]
    constructor
    · exact fun h => ⟨b, g, l, rfl, h⟩
    · rintro ⟨_, _, _, h, h'⟩; cases h; exact h'

theorem tryRelease_eq_some : s.tryRelease = some t ↔
    ∃ h, s.held = some h ∧ s.resetN = true ∧ h.reason = .flush ∧ (s.dom h.dom).state = .off ∧ t = s.releaseHeld h := by
  unfold State.tryRelease
  cases hh : s.held with
  | none => simp
  | some h =>
    simp only [Option.some.injEq, exists_eq_left', Option.ite_none_right_eq_some, Bool.and_eq_true, decide_eq_true_eq,
      and_assoc, eq_comm (a := t)]

theorem tryBegin_eq_some : s.tryBegin = some t ↔
    ∃ e rest, s.queue = e :: rest ∧ s.resetN = true ∧ s.engine = .idle ∧ e.phase = .queued ∧ e.fence = false ∧
      t = s.beginBank e rest := by
  unfold State.tryBegin
  cases hq : s.queue with
  | nil => simp
  | cons e rest =>
    simp only [List.cons.injEq, Option.some.injEq, Option.ite_none_right_eq_some, Bool.and_eq_true, Bool.not_eq_true',
      decide_eq_true_eq, and_assoc, eq_comm (a := t)]
    constructor
    · exact fun h => ⟨e, rest, rfl, rfl, h⟩
    · rintro ⟨_, _, rfl, rfl, h⟩; exact h

theorem tryRestart_eq_some : s.tryRestart = some t ↔
    s.resetN = true ∧ s.device = .restarting ∧ s.queue = [] ∧ t = s.completeRestart := by
  unfold State.tryRestart
  simp only [Option.ite_none_right_eq_some, Bool.and_eq_true, decide_eq_true_eq, List.isEmpty_iff, Option.some.injEq,
    and_assoc, eq_comm (a := t)]

theorem tryGrant_eq_some : s.tryGrant = some t ↔
    ∃ w m, s.resetN = true ∧ s.arb.mp = none ∧ s.arb.granted = none ∧ s.arb.choose = some w ∧ s.arb.request w = some m ∧
      t = { s with arb := s.arb.grant w m s.memTimeout.toNat } := by
  unfold State.tryGrant
  simp only [Option.ite_none_right_eq_some, Bool.and_eq_true, Option.isNone_iff_eq_none, and_assoc]
  constructor
  · rintro ⟨hr, hm, hg, h⟩
    split at h
    · cases h
    · next w hw =>
      split at h
      · cases h
      · next m hq => exact ⟨w, m, hr, hm, hg, hw, hq, (Option.some.inj h).symm⟩
  · rintro ⟨w, m, hr, hm, hg, hw, hq, rfl⟩
    simp [hr, hm, hg, hw, hq]

/-- A commit point taken is one that is due and not held back. -/
theorem hold_tryCommit {d : Dom} : h.tryCommit s d = some t ↔ h.commit ≠ some d ∧ s.tryCommit d = some t := by
  unfold Hold.tryCommit
  split <;> simp_all

/-- A grant taken is one that is due and not held back. -/
theorem hold_tryGrant : h.tryGrant s = some t ↔ h.grant = false ∧ s.tryGrant = some t := by
  unfold Hold.tryGrant
  split <;> simp_all

/-- The seven kinds of instant. -/
theorem advance_cases (ha : s.advance h = some t) :
    s.tryPlace = some t ∨ s.tryDrainEnd = some t ∨ (∃ d, h.commit ≠ some d ∧ s.tryCommit d = some t) ∨
      s.tryRelease = some t ∨ s.tryBegin = some t ∨ s.tryRestart = some t ∨ (h.grant = false ∧ s.tryGrant = some t) := by
  unfold State.advance at ha
  simp only [Option.or_eq_some_iff, hold_tryCommit, hold_tryGrant] at ha
  rcases ha with h | ⟨-, h | ⟨-, h | ⟨-, h | ⟨-, h | ⟨-, h | ⟨-, h | ⟨-, h⟩⟩⟩⟩⟩⟩⟩
  · exact .inl h
  · exact .inr (.inl h)
  · exact .inr (.inr (.inl ⟨_, h⟩))
  · exact .inr (.inr (.inl ⟨_, h⟩))
  · exact .inr (.inr (.inr (.inl h)))
  · exact .inr (.inr (.inr (.inr (.inl h))))
  · exact .inr (.inr (.inr (.inr (.inr (.inl h)))))
  · exact .inr (.inr (.inr (.inr (.inr (.inr h)))))

/-- Nothing happens while RESET_N is low. -/
theorem advance_resetN (ha : s.advance h = some t) : s.resetN = true := by
  rcases advance_cases ha with h | h | ⟨d, -, h⟩ | h | h | h | ⟨-, h⟩
  · obtain ⟨-, -, hr, -⟩ := tryPlace_eq_some.1 h; exact hr
  · obtain ⟨-, -, -, hr, -⟩ := tryDrainEnd_eq_some.1 h; exact hr
  · obtain ⟨-, -, -, -, hr, -⟩ := tryCommit_eq_some.1 h; exact hr
  · obtain ⟨-, -, hr, -⟩ := tryRelease_eq_some.1 h; exact hr
  · obtain ⟨-, -, -, hr, -⟩ := tryBegin_eq_some.1 h; exact hr
  · exact (tryRestart_eq_some.1 h).1
  · obtain ⟨-, -, hr, -⟩ := tryGrant_eq_some.1 h; exact hr

/-- With no instant due but those held back, none is taken. -/
theorem advance_eq_none : s.advance h = none ↔
    s.tryPlace = none ∧ s.tryDrainEnd = none ∧ (∀ d, h.commit ≠ some d → s.tryCommit d = none) ∧ s.tryRelease = none ∧
      s.tryBegin = none ∧ s.tryRestart = none ∧ (h.grant = false → s.tryGrant = none) := by
  have hc : (∀ d, h.commit ≠ some d → s.tryCommit d = none) ↔ h.tryCommit s .d0 = none ∧ h.tryCommit s .d1 = none := by
    unfold Hold.tryCommit
    constructor
    · intro H
      constructor
      · split
        · rfl
        · next hn => exact H _ hn
      · split
        · rfl
        · next hn => exact H _ hn
    · rintro ⟨h0, h1⟩ d hd
      cases d
      · simpa [hd] using h0
      · simpa [hd] using h1
  have hg : (h.grant = false → s.tryGrant = none) ↔ h.tryGrant s = none := by
    unfold Hold.tryGrant
    cases h.grant <;> simp
  rw [hc, hg]
  simp only [State.advance, Option.or_eq_none_iff, and_assoc]

/-! ### The induction of `settle` -/

/-- What every instant keeps, `settle` keeps, whatever is held back. -/
theorem settleHolding_induct {P : State → Prop} (hP : ∀ s t, P s → s.advance h = some t → P t) (hs : P s) :
    P (s.settleHolding h) := by
  have go : ∀ n s, P s → P (settleN h n s) := by
    intro n
    induction n with
    | zero => exact fun s hs => hs
    | succ n ih =>
      intro s hs
      unfold settleN
      split
      · exact hs
      · next t ht => exact ih t (hP s t hs ht)
  exact go _ _ hs

/-- A part of the state that no instant changes stands as it was. -/
theorem settleHolding_keeps {α : Type} (f : State → α) (hf : ∀ s t, s.advance h = some t → f t = f s) :
    f (s.settleHolding h) = f s :=
  settleHolding_induct (P := fun t => f t = f s) (fun a b ha hab => (hf a b hab).trans ha) rfl

/-- With nothing due nothing happens. -/
theorem settleHolding_of_advance (hn : s.advance h = none) : s.settleHolding h = s := by
  unfold State.settleHolding
  cases s.cost with
  | zero => rfl
  | succ n => simp [settleN, hn]

/-- While RESET_N is low nothing is due. -/
theorem settleHolding_low (hr : s.resetN = false) : s.settleHolding h = s := by
  apply settleHolding_of_advance
  cases ha : s.advance h with
  | none => rfl
  | some t => exact absurd (advance_resetN ha) (by simp [hr])

end Sys2Proof.Machine
end

