-- ==== Sys2Proof/Laws/Ops.lean ====
section
/-! SUPPORT. One lemma per shared operation: all it can do. -/

namespace Sys2Proof.Machine

variable {s : State}

/-! ### Counters and events -/

@[simp] theorem satAdd_zero (c : Half) : satAdd c 0 = c := by
  have := c.isLt
  unfold satAdd
  rw [if_neg (by omega)]
  simp

/-- The counters of a domain are those its state holds. -/
theorem counter_congr {t : State} {d e : Dom} (h : (t.dom e).counters = (s.dom d).counters) (c : DomCounter) :
    t.counter e c = s.counter d c := by
  unfold State.counter; rw [h]

/-- The events are those the state holds. -/
theorem event_congr {t : State} (h : t.events = s.events) (e : Event) : t.event e = s.event e := by
  unfold State.event; rw [h]

/-- A bump counts the one occasion it names (R168). -/
theorem bump_counted (d : Dom) (c : DomCounter) (n : Nat) : s.counted (s.bump d c n) d fun k => if k = c then n else 0 := by
  intro k
  rw [bump_counter]
  by_cases h : k = c <;> simp [h]

/-- An occurrence is the one it names (R141). -/
theorem raise_occurred (e : Event) : s.occurred (s.raise e) fun k => decide (k = e) := by
  intro k
  rw [raise_event]
  by_cases h : k = e <;> simp [h]

/-- What leaves a domain's counters is counted as nothing. -/
theorem counted_congr {a b t : State} {d : Dom} {n : DomCounter → Nat} (h : a.counted b d n)
    (ha : (a.dom d).counters = (s.dom d).counters) (hb : (t.dom d).counters = (b.dom d).counters) : s.counted t d n := by
  intro c
  rw [counter_congr hb, h c, counter_congr ha]

/-- What leaves the events changes no occurrence. -/
theorem occurred_congr {a b t : State} {o : Event → Bool} (h : a.occurred b o) (ha : a.events = s.events)
    (hb : t.events = b.events) : s.occurred t o := by
  intro e
  rw [event_congr hb, h e, event_congr ha]

/-- The device counter a bump names rises by one (R168). -/
theorem bumpDev_counted (c : DevCounter) : s.devCounted (s.bumpDev c) fun k => if k = c then 1 else 0 := by
  intro k
  cases c <;> cases k <;> simp [State.bumpDev, State.devCounter, DevCounter.idx]

/-! ### The journal -/

/-- R16. -/
theorem hold_held (d : Dom) (r : HeldReason) (a : Addr) (be : Lanes) (data : Word) :
    s.Held (s.acceptWp.hold d r a be data)
      { addr := a, be := be, data := data, dom := d, reason := r, start := s.time.tick
        left := (s.dom d).params.writeHold.toNat } where
  record := by cases d <;> rfl
  port := by cases d <;> rfl
  counters := counted_congr (bump_counted d .holds 1) (by cases d <;> rfl) rfl
  domain := by cases d <;> rfl
  others := by cases d <;> rfl
  frame := by cases d <;> rfl

/-- The group tracker's change (Table 3.2). -/
theorem noteWrite_tracked (d : Dom) (a : Addr) : s.tracked (s.noteWrite d a) d a := by
  intro g
  unfold State.noteWrite
  cases h : s.groupOf d a with
  | none => simp
  | some k =>
    by_cases hk : k = g
    · subst hk; simp
    · have : (k : Nat) ≠ g := fun h => hk (Fin.ext h)
      simp [hk, this]

/-- `tracked` reads of its first state the tables and the group states alone. -/
theorem tracked_congr {u t v : State} {d : Dom} {a : Addr} (h : u.tracked v d a) (hw : u.windows = s.windows)
    (hg : u.groups = s.groups) (hs : u.groupStates = s.groupStates) (ht : t.groupStates = v.groupStates) :
    s.tracked t d a := by
  intro g
  have ho : u.groupOf d a = s.groupOf d a := by
    simp only [State.groupOf, State.inForce, State.groupDom, State.groupHas, State.groupFirst, State.groupClosing,
      State.groupWindow, hw, hg]
    rfl
  have hc : u.groupClosing g = s.groupClosing g := by
    simp only [State.groupFirst, State.groupClosing, State.groupWindow, hw, hg]
  rw [ht, h g, ho, hc, hs]

/-- R3, R10, R17. -/
theorem appendEntry_placed (d : Dom) (a : Addr) (be : Lanes) (data : Word) (h : 1 ≤ s.free) :
    s.Placed ((s.appendEntry d a be data).answerWp false 0) d a be data where
  bank := by unfold State.appendEntry; cases d <;> simp [State.updDom, State.setDom, State.bump, State.newEntry]
  slot := by unfold State.appendEntry; simp; omega
  counters := by
    refine counted_congr (bump_counted d .journaled 1) ?_ ?_
      (a := { s.updDom d fun x => { x with openBank := x.openBank ++ [s.newEntry d a be data] } with free := s.free - 1 })
    · cases d <;> rfl
    · unfold State.appendEntry; cases d <;> simp
  groups := by
    refine tracked_congr (noteWrite_tracked d a) ?_ ?_ ?_ ?_
      (u := ({ s.updDom d fun x => { x with openBank := x.openBank ++ [s.newEntry d a be data] } with
        free := s.free - 1 } : State).bump d .journaled 1)
    · simp
    · simp
    · simp
    · unfold State.appendEntry; simp
  answer := rfl
  domain := by unfold State.appendEntry; cases d <;> simp [State.updDom, State.setDom, State.bump]
  others := by unfold State.appendEntry; cases d <;> simp [State.updDom, State.setDom, State.bump, otherDom]
  frame := by
    unfold State.appendEntry State.noteWrite
    cases d <;> simp only [State.updDom, State.setDom, State.bump, State.answerWp] <;> split <;> rfl

/-! ### The memory arbiter -/

/-- What is said of the three requesters. -/
theorem forall_requester {p : Requester → Prop} : (∀ r, p r) ↔ p .cp ∧ p .drain ∧ p .wp :=
  ⟨fun h => ⟨h _, h _, h _⟩, fun h r => by cases r; exacts [h.1, h.2.1, h.2.2]⟩

/-- The arbiter's choice is the favoured requester whose request is presented (R108, R109). -/
theorem choose_eq_some {a : Arbiter} {w : Requester} : a.choose = some w ↔ a.favours w ∧ (a.request w).isSome = true := by
  obtain ⟨cr, dr, wr, cw, dw, ww, m, c⟩ := a
  simp only [Arbiter.favours, forall_requester, Arbiter.guarded, Arbiter.choose, Arbiter.presented, requesters,
    Config.guardCount, Arbiter.request, Arbiter.wait]
  cases cr <;> cases dr <;> cases wr <;>
    simp only [List.filter, Option.isSome, List.find?, List.head?] <;> cases w <;>
    simp only [Requester.rank] <;> grind

/-- With nothing presented there is no choice. -/
theorem choose_eq_none {a : Arbiter} : a.choose = none ↔ ∀ w, a.request w = none := by
  rw [forall_requester]
  constructor
  · intro h
    unfold Arbiter.choose at h
    split at h
    · cases h
    · have : a.presented = [] := by simpa using h
      simpa [Arbiter.presented, requesters, List.filter_eq_nil_iff] using this
  · rintro ⟨h1, h2, h3⟩
    simp [Arbiter.choose, Arbiter.presented, requesters, h1, h2, h3]

end Sys2Proof.Machine
end

