-- ==== Sys2Proof/Laws/Link.lean ====
section
/-! SUPPORT. The setup link: what a frame does to the link, and that no command body reads or writes the link. -/

namespace Sys2Proof.Machine

variable {s q u : State}

/-! ### The bits of the lanes -/

/-- A lane's eight bits of the mask are its bit (R171). -/
theorem laneMask_bit : ∀ (l : Lanes) (i : Fin 4) (j : Fin 8), (laneMask l).getLsbD (8 * i + j) = l.getLsbD i := by decide

/-! ### Frames -/

/-- What the bits of a frame do to a link that receives, as many as they are: each is counted, the first 64 are kept, and each edge
finds the next bit of the response on SL_DO (R149). -/
theorem foldl_clock (out : Frame) (bits : List Bool) : ∀ k : Link, k.state = .receiving → k.kept.length = min k.bitCount 64 →
    k.slDo = some (out.getMsbD k.bitCount) →
    bits.foldl (Link.clock out) k = { k with
      bitCount := k.bitCount + bits.length
      kept := k.kept ++ bits.take (64 - k.bitCount)
      presented := k.presented ++ (List.range' k.bitCount bits.length).map fun i => out.getMsbD i
      slDo := some (out.getMsbD (k.bitCount + bits.length)) } := by
  induction bits with
  | nil =>
    rintro ⟨st, se, n, ke, pr, sd, re⟩ h hk hd
    simp only [List.foldl_nil, List.take_nil, List.append_nil, List.length_nil, List.range'_zero, List.map_nil,
      Nat.add_zero] at *
    rw [hd]
  | cons x bits ih =>
    rintro ⟨st, se, n, ke, pr, sd, re⟩ h hk hd
    simp only at h hk hd
    subst h
    rw [List.foldl_cons, ih]
    · have hb : n + 1 + bits.length = n + (bits.length + 1) := by omega
      simp only [Link.clock, List.length_cons, List.range'_succ, List.map_cons, List.append_assoc, List.singleton_append, hb,
        Link.mk.injEq, true_and, and_true]
      split
      · next hn =>
        have : 64 - n = (64 - (n + 1)) + 1 := by omega
        rw [this, List.take_succ_cons, List.append_assoc, List.singleton_append]
      · next hn =>
        have h1 : 64 - n = 0 := by omega
        have h2 : 64 - (n + 1) = 0 := by omega
        rw [h1, h2, List.take_zero, List.take_zero]
    · rfl
    · simp only [Link.clock]
      split
      · simp; omega
      · omega
    · rfl

/-- One frame on the link (R149, R150, Table 10.1). -/
theorem receive_eq (k : Link) (bits : List Bool) : k.receive bits = { k with
    state := .deselected
    selN := true
    bitCount := bits.length
    kept := bits.take 64
    presented := (List.range bits.length).map fun i => k.response.frame.getMsbD i
    slDo := none } := by
  unfold Link.receive
  rw [foldl_clock _ _ _ rfl rfl rfl]
  simp [Link.selectFall, Link.selectRise, List.range_eq_range']

/-- A frame's 64 bits are its bits, first sent first. -/
theorem frameBits_length (f : Frame) : (frameBits f).length = 64 := by simp [frameBits]

theorem receive_frame (k : Link) (f : Frame) : k.receive (frameBits f) = { k with
    state := .deselected
    selN := true
    bitCount := 64
    kept := frameBits f
    presented := frameBits k.response.frame
    slDo := none } := by
  rw [receive_eq, frameBits_length, List.take_of_length_le (frameBits_length f).le]
  rfl

/-- A frame taken and answered leaves the link `answering` describes. -/
theorem shiftFrame_respond (c : Byte) (arg : Byte) (data : Word) (tag : Byte) (r : Reply) :
    (u.shiftFrame (commandFrame c arg data tag)).respond c tag r = u.answering c arg data tag r := by
  simp only [State.shiftFrame, State.respond, State.answering, Link.answered, receive_frame]

/-- A link that listens judges the frame. -/
theorem takeFrame_listens {judge : State → State} (hl : q.listens) : q.takeFrame judge = judge q := by
  simp [State.takeFrame, hl.1, hl.2]

/-- A command that passes the tests of R154 has the effect of its body and is answered its reply; `u` is what the body makes of
`q`, the link apart. -/
theorem linkCommand_taken {c : Command} {arg : Byte} {data : Word} {tag : Byte} {body : State → State × Reply} {r : Reply}
    (hl : q.listens) (hg : q.device = .running ∨ c.always = true)
    (hb : ∀ f, body (q.shiftFrame f) = (u.shiftFrame f, r)) :
    q.linkCommand c arg data tag body = u.answering c.code arg data tag r := by
  have hgate : (q.shiftFrame (commandFrame c.code arg data tag)).gate c = none := by
    unfold State.gate
    rw [if_pos (by simpa using hg)]
  unfold State.linkCommand
  rw [takeFrame_listens hl]
  simp only [hgate, hb]
  exact shiftFrame_respond ..

/-- A command that the gate of R154 refuses changes nothing but the link. -/
theorem linkCommand_gated {c : Command} {arg : Byte} {data : Word} {tag : Byte} {body : State → State × Reply}
    (hl : q.listens) (hd : q.device = .restarting) (hc : c.always = false) :
    q.linkCommand c arg data tag body =
      q.answering c.code arg data tag (.bare (if c = .restart then .state else .restarting)) := by
  have hgate : (q.shiftFrame (commandFrame c.code arg data tag)).gate c =
      some (if c = .restart then .state else .restarting) := by
    unfold State.gate
    rw [if_neg (by simp [hd, hc])]
    split <;> rfl
  unfold State.linkCommand
  rw [takeFrame_listens hl]
  simp only [hgate]
  exact shiftFrame_respond ..

/-- While RESET_N is low a frame does nothing (R160). -/
theorem linkCommand_low {c : Command} {arg : Byte} {data : Word} {tag : Byte} {body : State → State × Reply}
    (hr : s.resetN = false) : s.linkCommand c arg data tag body = s := by
  simp [State.linkCommand, State.takeFrame, hr]

/-! ### The bodies and the link -/

/-- An operation on a domain leaves the link apart. -/
theorem updDom_shiftFrame (f : Frame) (d : Dom) (g : Domain → Domain) :
    (s.shiftFrame f).updDom d g = (s.updDom d g).shiftFrame f := by
  cases d <;> simp only [State.updDom, State.setDom, State.shiftFrame, State.dom]

theorem bump_shiftFrame (f : Frame) (d : Dom) (c : DomCounter) (n : Nat) :
    (s.shiftFrame f).bump d c n = (s.bump d c n).shiftFrame f := updDom_shiftFrame f d _

theorem raise_shiftFrame (f : Frame) (e : Event) : (s.shiftFrame f).raise e = (s.raise e).shiftFrame f := by
  simp only [State.raise, State.shiftFrame]

theorem closeGroups_shiftFrame (f : Frame) (d : Dom) :
    (s.shiftFrame f).closeGroups d = (s.closeGroups d).shiftFrame f := by
  simp only [State.closeGroups, State.shiftFrame, State.groupDom, State.groupWindow]
  rfl

theorem heldToRestart_shiftFrame (f : Frame) : (s.shiftFrame f).heldToRestart = s.heldToRestart.shiftFrame f := by
  simp only [State.heldToRestart, State.shiftFrame]

theorem free_shiftFrame (f : Frame) (n : Nat) :
    ({ s.shiftFrame f with free := n } : State) = ({ s with free := n } : State).shiftFrame f := by
  simp only [State.shiftFrame]

theorem freeOpenBank_shiftFrame (f : Frame) (d : Dom) :
    (s.shiftFrame f).freeOpenBank d = (s.freeOpenBank d).shiftFrame f := by
  unfold State.freeOpenBank
  simp only [updDom_shiftFrame, shiftFrame_free, shiftFrame_dom, free_shiftFrame, bump_shiftFrame]

theorem takesRequests_shiftFrame (f : Frame) (d : Dom) : (s.shiftFrame f).takesRequests d = s.takesRequests d := by
  simp only [State.takesRequests, shiftFrame_device, shiftFrame_dom]

theorem queued_shiftFrame (f : Frame) (d : Dom) : (s.shiftFrame f).queued d = s.queued d := by
  simp only [State.queued, shiftFrame_queue]

theorem request_shiftFrame (f : Frame) (d : Dom) (c : Cause) :
    (s.shiftFrame f).request d c = (s.request d c).shiftFrame f := by
  unfold State.request
  rw [takesRequests_shiftFrame]
  split
  · rfl
  · simp only [shiftFrame_dom, shiftFrame_time, queued_shiftFrame]
    split
    · split <;> exact updDom_shiftFrame ..
    · simp only [State.noteMerge, updDom_shiftFrame, bump_shiftFrame, raise_shiftFrame]
    · simp only [State.noteMerge, updDom_shiftFrame, bump_shiftFrame, raise_shiftFrame]

theorem acceptRestart_shiftFrame (f : Frame) : (s.shiftFrame f).acceptRestart = s.acceptRestart.shiftFrame f := by
  have hd : ({ s.shiftFrame f with device := .restarting } : State) =
      ({ s with device := .restarting } : State).shiftFrame f := by simp only [State.shiftFrame]
  unfold State.acceptRestart
  simp only [hd, updDom_shiftFrame, freeOpenBank_shiftFrame, heldToRestart_shiftFrame, closeGroups_shiftFrame]

end Sys2Proof.Machine
end

