-- ==== Sys2Proof/Laws/Settle.lean ====
section
/-! SUPPORT. What the part's own instants leave as it was, that each lowers the cost, and that `settle` leaves none due. -/

namespace Sys2Proof.Machine

variable {s t : State} {h : Hold}

/-! ### What stands still -/

theorem updDom_still (d : Dom) {f : Domain → Domain} (h : (f (s.dom d)).params = (s.dom d).params) :
    (s.updDom d f).still = s.still := by
  cases d <;> simp [State.updDom, State.setDom, State.still] <;> exact h

theorem bump_still (d : Dom) (c : DomCounter) (n : Nat) : (s.bump d c n).still = s.still := updDom_still d rfl
theorem raise_still (e : Event) : (s.raise e).still = s.still := rfl
theorem answerWp_still (err : Bool) (w : Word) : (s.answerWp err w).still = s.still := rfl
theorem presentWp_still (r : Request) : (s.presentWp r).still = s.still := rfl
theorem presentDrain_still (b : Bank) : (s.presentDrain b).still = s.still := rfl
theorem closeGroups_still (d : Dom) : (s.closeGroups d).still = s.still := rfl
theorem pushHistory_still (r : HistoryRecord) : (s.pushHistory r).still = s.still := rfl
theorem fenceRead_still (d : Dom) : (s.fenceRead d).still = s.still := rfl
theorem goOff_still (d : Dom) : (s.goOff d).still = s.still := updDom_still d rfl

theorem noteWrite_still (d : Dom) (a : Addr) : (s.noteWrite d a).still = s.still := by
  unfold State.noteWrite; split <;> rfl

theorem appendEntry_still (d : Dom) (a : Addr) (be : Lanes) (data : Word) :
    (s.appendEntry d a be data).still = s.still := by
  unfold State.appendEntry
  refine (noteWrite_still d a).trans ((bump_still d _ _).trans ?_)
  exact updDom_still (s := s) d (f := fun x => { x with openBank := x.openBank ++ [s.newEntry d a be data] }) rfl

theorem abandon_still (d : Dom) : (s.abandon d).still = s.still := by
  have h := updDom_still (s := s) d (f := fun x => { x with openBank := s.keptEntries d }) rfl
  unfold State.abandon
  dsimp only
  split
  · exact h
  · exact (raise_still _).trans ((bump_still d _ _).trans h)

theorem noteCommit_still (d : Dom) : (s.noteCommit d).still = s.still := by
  have h : ((s.bump d .commits 1).raise (.dom d .commit)).still = s.still := (raise_still _).trans (bump_still d _ _)
  unfold State.noteCommit
  dsimp only
  split
  · exact h
  · exact (raise_still _).trans ((bump_still d _ _).trans h)

theorem enqueue_still (d : Dom) : (s.enqueue d).still = s.still := by
  unfold State.enqueue; split <;> rfl

theorem finishFinal_still (d : Dom) : (s.finishFinal d).still = s.still := by
  have h : ((s.updDom d fun x => { x with state := .flushing true }).heldToFlush d).still = s.still :=
    updDom_still (s := s) d (f := fun x => { x with state := .flushing true }) rfl
  unfold State.finishFinal
  dsimp only
  split
  · exact (goOff_still d).trans h
  · exact h

theorem commit_still (d : Dom) (b : Boundary) : (s.commit d b).still = s.still := by
  have h : ∀ r, (((((((s.abandon d).updDom d Domain.swapBanks).closeGroups d).pushHistory r).noteCommit d).fenceRead d).enqueue
      d).still = s.still := fun r =>
    (enqueue_still d).trans ((fenceRead_still d).trans ((noteCommit_still d).trans ((pushHistory_still r).trans
      ((closeGroups_still d).trans ((updDom_still d rfl).trans (abandon_still d))))))
  unfold State.commit
  dsimp only
  split
  · exact (finishFinal_still d).trans (h _)
  · exact h _

theorem endDrain_still (e : Element) (rest : List Element) : (s.endDrain e rest).still = s.still := by
  have h : ∀ u : State, u.still = s.still →
      ((u.updRecord e fun r => { r with drain := .done }).raise (.dom e.dom .drained)).still = s.still := fun u hu => hu
  have hp : ∀ x : Domain, x.drainEnded.params = x.params := by
    intro x; unfold Domain.drainEnded; split <;> rfl
  unfold State.endDrain
  dsimp only
  split
  · exact (goOff_still _).trans ((updDom_still _ (hp _)).trans (h _ rfl))
  · exact (updDom_still _ (hp _)).trans (h _ rfl)

theorem completeRestart_still : s.completeRestart.still = s.still := by
  unfold State.completeRestart State.releaseRestart
  dsimp only
  split
  · split <;> rfl
  · rfl

/-- No instant of the part's own changes the level of RESET_N, a parameter, the time base, the record's device part, the link or
the queue of commands. -/
theorem advance_still (ha : s.advance h = some t) : t.still = s.still := by
  rcases advance_cases ha with h | h | ⟨d, -, h⟩ | h | h | h | ⟨-, h⟩
  · obtain ⟨w, -, -, -, -, rfl⟩ := tryPlace_eq_some.1 h
    exact (answerWp_still _ _).trans ((appendEntry_still ..).trans rfl)
  · obtain ⟨e, r, -, -, -, -, rfl⟩ := tryDrainEnd_eq_some.1 h; exact endDrain_still e r
  · obtain ⟨b, g, l, -, -, -, rfl⟩ := tryCommit_eq_some.1 h; exact commit_still d b
  · obtain ⟨w, -, -, -, -, rfl⟩ := tryRelease_eq_some.1 h; rfl
  · obtain ⟨e, r, -, -, -, -, -, rfl⟩ := tryBegin_eq_some.1 h; rfl
  · obtain ⟨-, -, -, rfl⟩ := tryRestart_eq_some.1 h; exact completeRestart_still
  · obtain ⟨w, m, -, -, -, -, -, rfl⟩ := tryGrant_eq_some.1 h; rfl

theorem settleHolding_still : (s.settleHolding h).still = s.still :=
  settleHolding_keeps State.still fun _ _ ha => advance_still ha

theorem settleHolding_resetN : (s.settleHolding h).resetN = s.resetN := congrArg Still.resetN settleHolding_still

theorem settle_resetN : s.settle.resetN = s.resetN := settleHolding_resetN

/-! ### The upstream ports -/

/-- The two upstream ports. -/
def State.upstream (s : State) : Port × Port := (s.wp, s.cp)

theorem commit_upstream (d : Dom) (b : Boundary) : (s.commit d b).upstream = s.upstream := by
  have h1 : ∀ u : State, (u.abandon d).upstream = u.upstream := by
    intro u; unfold State.abandon; dsimp only; split <;> simp [State.upstream]
  have h2 : ∀ u : State, (u.noteCommit d).upstream = u.upstream := by
    intro u; unfold State.noteCommit; dsimp only; split <;> simp [State.upstream]
  have h3 : ∀ u : State, (u.enqueue d).upstream = u.upstream := by
    intro u; unfold State.enqueue; split <;> rfl
  have h4 : ∀ u : State, (u.finishFinal d).upstream = u.upstream := by
    intro u; unfold State.finishFinal; dsimp only; split <;> simp [State.upstream]
  have h5 : ∀ (u : State) r, (((u.updDom d Domain.swapBanks).closeGroups d).pushHistory r).upstream = u.upstream := by
    intro u r; simp [State.upstream]
  have h6 : ∀ u : State, (u.fenceRead d).upstream = u.upstream := fun _ => rfl
  unfold State.commit
  dsimp only
  split
  · rw [h4, h3, h6, h2, h5, h1]
  · rw [h3, h6, h2, h5, h1]

/-- The part's own instants leave the consumer port as it is, and of the writer port they can only answer the access (R17). -/
theorem advance_upstream (ha : s.advance h = some t) : t.cp = s.cp ∧ (t.wp = s.wp ∨ t.wp.busy = false) := by
  rcases advance_cases ha with h | h | ⟨d, -, h⟩ | h | h | h | ⟨-, h⟩
  · obtain ⟨w, -, -, -, -, rfl⟩ := tryPlace_eq_some.1 h
    exact ⟨by unfold State.placeHeld State.appendEntry; simp, .inr rfl⟩
  · obtain ⟨e, r, -, -, -, -, rfl⟩ := tryDrainEnd_eq_some.1 h
    unfold State.endDrain
    dsimp only
    split <;> simp
  · obtain ⟨b, g, l, -, -, -, rfl⟩ := tryCommit_eq_some.1 h
    have := commit_upstream (s := s) d b
    exact ⟨congrArg Prod.snd this, .inl (congrArg Prod.fst this)⟩
  · obtain ⟨w, -, -, -, -, rfl⟩ := tryRelease_eq_some.1 h; exact ⟨rfl, .inl rfl⟩
  · obtain ⟨e, r, -, -, -, -, -, rfl⟩ := tryBegin_eq_some.1 h; exact ⟨rfl, .inl rfl⟩
  · obtain ⟨-, -, -, rfl⟩ := tryRestart_eq_some.1 h
    unfold State.completeRestart State.releaseRestart
    dsimp only
    split
    · split <;> exact ⟨rfl, .inl rfl⟩
    · exact ⟨rfl, .inl rfl⟩
  · obtain ⟨w, m, -, -, -, -, -, rfl⟩ := tryGrant_eq_some.1 h; exact ⟨rfl, .inl rfl⟩

theorem settleHolding_cp : (s.settleHolding h).cp = s.cp := settleHolding_keeps State.cp fun _ _ ha => (advance_upstream ha).1

/-- A writer port that is free stays free. -/
theorem settleHolding_wp_free (hw : s.wp.busy = false) : (s.settleHolding h).wp.busy = false :=
  settleHolding_induct (P := fun t => t.wp.busy = false)
    (fun _ _ hb ha => (advance_upstream ha).2.elim (fun he => he ▸ hb) id) hw

theorem settleHolding_wpAccepts (ha : s.wpAccepts = true) : (s.settleHolding h).wpAccepts = true := by
  simp only [State.wpAccepts, Bool.and_eq_true, Bool.not_eq_true'] at *
  exact ⟨settleHolding_resetN.trans ha.1, settleHolding_wp_free ha.2⟩

theorem settleHolding_cpAccepts (ha : s.cpAccepts = true) : (s.settleHolding h).cpAccepts = true := by
  simp only [State.cpAccepts, Bool.and_eq_true, Bool.not_eq_true'] at *
  exact ⟨settleHolding_resetN.trans ha.1, by rw [settleHolding_cp]; exact ha.2⟩

/-! ### The cost -/

/-- The cost reads the held write, the drain queue, the two schedulers, the device state and the requests presented. -/
theorem cost_congr (h : heldCost t.held = heldCost s.held) (hq : t.queue = s.queue) (h0 : t.dom0.sched = s.dom0.sched)
    (h1 : t.dom1.sched = s.dom1.sched) (hd : t.device = s.device) (ha : t.arb = s.arb) :
    t.cost = s.cost := by
  simp only [State.cost, h, hq, h0, h1, hd, ha]

theorem updDom_dom_sched (d e : Dom) {f : Domain → Domain} (h : ∀ x, (f x).sched = x.sched) :
    ((s.updDom d f).dom e).sched = (s.dom e).sched := by
  cases d <;> cases e <;> simp [State.updDom, State.setDom, h]

theorem bump_dom_sched (d e : Dom) (c : DomCounter) (n : Nat) : ((s.bump d c n).dom e).sched = (s.dom e).sched :=
  updDom_dom_sched d e fun _ => rfl

theorem appendEntry_dom_sched (d e : Dom) (a : Addr) (be : Lanes) (data : Word) :
    ((s.appendEntry d a be data).dom e).sched = (s.dom e).sched := by
  unfold State.appendEntry
  simp only [noteWrite_dom]
  rw [bump_dom_sched]
  exact updDom_dom_sched (s := s) d e (f := fun x => { x with openBank := x.openBank ++ [s.newEntry d a be data] }) fun _ => rfl

theorem placeHeld_cost {h : HeldWrite} (hh : s.held = some h) : (s.placeHeld h).cost < s.cost := by
  have h0 := appendEntry_dom_sched (s := { s with held := none }) h.dom .d0 h.addr h.be h.data
  have h1 := appendEntry_dom_sched (s := { s with held := none }) h.dom .d1 h.addr h.be h.data
  have hc : (s.placeHeld h).cost = ({ s with held := none } : State).cost :=
    cost_congr (by unfold State.placeHeld State.appendEntry; simp) (by unfold State.placeHeld State.appendEntry; simp) h0 h1
      (by unfold State.placeHeld State.appendEntry; simp) (by unfold State.placeHeld State.appendEntry; simp)
  rw [hc]
  simp only [State.cost, hh, heldCost]
  omega

theorem requestCost_le (m : Option Request) : requestCost m ≤ 1 := by
  cases m <;> simp [requestCost]

theorem releaseHeld_cost {h : HeldWrite} (hh : s.held = some h) : (s.releaseHeld h).cost < s.cost := by
  simp only [State.releaseHeld, State.presentWp, State.cost, hh, heldCost, Arbiter.cost, requestCost]
  omega

theorem beginBank_cost {e : Element} {rest : List Element} (hq : s.queue = e :: rest) (hp : e.phase = .queued) :
    (s.beginBank e rest).cost < s.cost := by
  have := requestCost_le ((s.dom e.dom).drainBank.head?.map Entry.drainWrite)
  simp only [State.beginBank, State.presentDrain, State.cost, hq, List.map_cons, List.sum_cons, Element.cost, hp,
    Arbiter.cost]
  omega

theorem drainEnded_cost (x : Domain) : x.drainEnded.sched.cost = x.sched.cost := by
  unfold Domain.drainEnded
  split <;> simp_all [Domain.enterSettle, Sched.cost]

theorem goOff_cost (d : Dom) : (s.goOff d).cost = s.cost := by
  cases d <;> rfl

theorem endDrain_cost {e : Element} {rest : List Element} (hq : s.queue = e :: rest) : (s.endDrain e rest).cost < s.cost := by
  have hd : ∀ u : State, (u.updDom e.dom Domain.drainEnded).cost = u.cost := by
    intro u
    cases e.dom <;> simp only [State.cost, State.updDom, State.setDom, State.dom, drainEnded_cost]
  have he : 1 ≤ e.cost := by unfold Element.cost; split <;> omega
  have hr : ({ s with queue := rest } : State).cost < s.cost := by
    simp only [State.cost, hq, List.map_cons, List.sum_cons]; omega
  unfold State.endDrain
  dsimp only
  split
  · exact (goOff_cost _).trans_lt ((hd _).trans_lt hr)
  · exact (hd _).trans_lt hr

theorem releaseRestart_cost : s.releaseRestart.cost ≤ s.cost := by
  unfold State.releaseRestart
  split
  · next w hw =>
    split
    · exact (releaseHeld_cost hw).le
    · exact le_rfl
  · exact le_rfl

theorem completeRestart_cost (hd : s.device = .restarting) : s.completeRestart.cost < s.cost := by
  unfold State.completeRestart
  refine releaseRestart_cost.trans_lt ?_
  change heldCost s.held + (s.queue.map Element.cost).sum + s.dom0.sched.cost + s.dom1.sched.cost + 0 + s.arb.cost < _
  simp only [State.cost, hd, DeviceState.cost]
  omega

theorem abandon_cost (d : Dom) : (s.abandon d).cost = s.cost := by
  have h (e : Dom) := updDom_dom_sched (s := s) d e (f := fun x => { x with openBank := s.keptEntries d }) fun _ => rfl
  unfold State.abandon
  dsimp only
  split
  · exact cost_congr (by simp) (by simp) (h .d0) (h .d1) (by simp) (by simp)
  · exact cost_congr (by simp) (by simp) ((bump_dom_sched d .d0 _ _).trans (h .d0)) ((bump_dom_sched d .d1 _ _).trans (h .d1))
      (by simp) (by simp)

theorem noteCommit_cost (d : Dom) : (s.noteCommit d).cost = s.cost := by
  have h (e : Dom) := bump_dom_sched (s := s) d e .commits 1
  unfold State.noteCommit
  dsimp only
  split
  · exact cost_congr (by simp) (by simp) (h .d0) (h .d1) (by simp) (by simp)
  · exact cost_congr (by simp) (by simp) ((bump_dom_sched d .d0 _ _).trans (h .d0)) ((bump_dom_sched d .d1 _ _).trans (h .d1))
      (by simp) (by simp)

theorem enqueue_cost (d : Dom) : (s.enqueue d).cost ≤ s.cost + 3 := by
  unfold State.enqueue
  split
  · exact Nat.le_add_right _ _
  · simp only [State.cost, List.map_append, List.sum_append, List.map_cons, List.map_nil, List.sum_cons, List.sum_nil,
      Element.cost]
    omega

theorem finishFinal_cost (d : Dom) : (s.finishFinal d).cost = s.cost := by
  have h : ((s.updDom d fun x => { x with state := .flushing true }).heldToFlush d).cost = s.cost :=
    cost_congr (by simp only [State.heldToFlush, updDom_held]; cases s.held <;> rfl) (by simp)
      (updDom_dom_sched (s := s) d .d0 (f := fun x => { x with state := .flushing true }) fun _ => rfl)
      (updDom_dom_sched (s := s) d .d1 (f := fun x => { x with state := .flushing true }) fun _ => rfl) (by simp)
      (by simp)
  unfold State.finishFinal
  dsimp only
  split
  · exact (goOff_cost d).trans h
  · exact h

theorem abandon_dom_sched (d e : Dom) : ((s.abandon d).dom e).sched = (s.dom e).sched := by
  have h := updDom_dom_sched (s := s) d e (f := fun x => { x with openBank := s.keptEntries d }) fun _ => rfl
  unfold State.abandon
  dsimp only
  split
  · exact h
  · exact (bump_dom_sched d e _ _).trans h

theorem fenceRead_cost (d : Dom) : (s.fenceRead d).cost = s.cost := rfl
theorem pushHistory_cost (r : HistoryRecord) : (s.pushHistory r).cost = s.cost := rfl
theorem closeGroups_cost (d : Dom) : (s.closeGroups d).cost = s.cost := rfl

theorem commit_cost {d : Dom} {b c : Boundary} {g l : Option Nat} (hs : (s.dom d).sched = .settle c g l) :
    (s.commit d b).cost < s.cost := by
  have hswap : ∀ u : State, (u.dom d).sched = .settle c g l → (u.updDom d Domain.swapBanks).cost + 4 = u.cost := by
    intro u hu
    cases d
    · have : u.dom0.sched = .settle c g l := hu
      simp only [State.cost, State.updDom, State.setDom, State.dom, Domain.swapBanks, Sched.cost, this]; omega
    · have : u.dom1.sched = .settle c g l := hu
      simp only [State.cost, State.updDom, State.setDom, State.dom, Domain.swapBanks, Sched.cost, this]; omega
  have h1 := hswap (s.abandon d) ((abandon_dom_sched d d).trans hs)
  rw [abandon_cost] at h1
  have h2 : ∀ r, (((((((s.abandon d).updDom d Domain.swapBanks).closeGroups d).pushHistory r).noteCommit d).fenceRead d).enqueue
      d).cost < s.cost := by
    intro r
    refine (enqueue_cost d).trans_lt ?_
    rw [fenceRead_cost, noteCommit_cost, pushHistory_cost, closeGroups_cost]
    omega
  unfold State.commit
  dsimp only
  split
  · rw [finishFinal_cost]; exact h2 _
  · exact h2 _

theorem grant_cost {a : Arbiter} {w : Requester} {m : Request} {n : Nat} (hm : a.request w = some m) :
    (a.grant w m n).cost < a.cost := by
  cases w <;>
    simp only [Arbiter.request] at hm <;>
    simp only [Arbiter.grant, Arbiter.cost, hm, requestCost, if_true, reduceCtorEq, if_false] <;>
    omega

/-- Each instant lowers the cost. -/
theorem advance_cost (ha : s.advance h = some t) : t.cost < s.cost := by
  rcases advance_cases ha with h | h | ⟨d, -, h⟩ | h | h | h | ⟨-, h⟩
  · obtain ⟨w, hw, -, -, -, rfl⟩ := tryPlace_eq_some.1 h; exact placeHeld_cost hw
  · obtain ⟨e, r, hq, -, -, -, rfl⟩ := tryDrainEnd_eq_some.1 h; exact endDrain_cost hq
  · obtain ⟨b, g, l, hs, -, -, rfl⟩ := tryCommit_eq_some.1 h; exact commit_cost hs
  · obtain ⟨w, hw, -, -, -, rfl⟩ := tryRelease_eq_some.1 h; exact releaseHeld_cost hw
  · obtain ⟨e, r, hq, -, -, hp, -, rfl⟩ := tryBegin_eq_some.1 h; exact beginBank_cost hq hp
  · obtain ⟨-, hd, -, rfl⟩ := tryRestart_eq_some.1 h; exact completeRestart_cost hd
  · obtain ⟨w, m, -, -, -, -, hm, rfl⟩ := tryGrant_eq_some.1 h
    have := grant_cost (n := s.memTimeout.toNat) hm
    simp only [State.cost]
    omega

/-- After the instants due have been taken none is left but those held back: the fuel suffices. -/
theorem settleHolding_advance : (s.settleHolding h).advance h = none := by
  have go : ∀ n (u : State), u.cost ≤ n → (settleN h n u).advance h = none := by
    intro n
    induction n with
    | zero =>
      intro u hu
      unfold settleN
      cases ha : u.advance h with
      | none => rfl
      | some v => have := advance_cost ha; omega
    | succ n ih =>
      intro u hu
      unfold settleN
      cases ha : u.advance h with
      | none => exact ha
      | some v => exact ih v (by have := advance_cost ha; omega)
  exact go _ _ le_rfl

/-- To settle twice is to settle once. -/
theorem settleHolding_settleHolding : (s.settleHolding h).settleHolding h = s.settleHolding h :=
  settleHolding_of_advance settleHolding_advance

theorem settle_settle : s.settle.settle = s.settle := settleHolding_settleHolding

end Sys2Proof.Machine
end

