-- ==== Sys2Proof/Laws/Moves.lean ====
section
/-! SUPPORT. What a step can do, said once: the moves of the part, and that whatever every move keeps, every step keeps. -/

namespace Sys2Proof.Machine

/-! ### Operations that leave the level of RESET_N -/

section
variable {s : State}

theorem request_resetN (d : Dom) (c : Cause) : (s.request d c).resetN = s.resetN := by
  unfold State.request
  split
  · rfl
  · split
    · split <;> simp
    · simp [State.noteMerge]
    · simp [State.noteMerge]

theorem expireTimer_resetN (d : Dom) : (s.expireTimer d).resetN = s.resetN := by
  unfold State.expireTimer
  split
  · rfl
  · rw [request_resetN]; simp

theorem retire_resetN (lost : Bool) : (s.retire lost).resetN = s.resetN := by
  unfold State.retire
  split
  · rfl
  · split
    · rfl
    · dsimp only
      split <;> simp [State.noteLost]

theorem deliver_resetN (o : Outstanding) (err : Bool) (mem : Word) : (s.deliver o err mem).resetN = s.resetN := by
  have hc : ∀ u : State, (u.countError err).resetN = u.resetN := by
    intro u; unfold State.countError; split <;> rfl
  unfold State.deliver
  split
  · exact retire_resetN err
  · rw [hc]
    split
    · rfl
    · unfold State.finishCpRead State.clearFence
      dsimp only
      split
      · split <;> rfl
      · rfl
  · rw [hc]
    split <;> rfl

theorem withdraw_resetN : s.withdraw.resetN = s.resetN := by
  unfold State.withdraw
  split
  · rfl
  · rw [deliver_resetN]

/-- A writer port that takes an access still takes it when the instants due have been taken (R170). -/
theorem settleForWrite_wpAccepts (a : Addr) (be : Lanes) (ha : s.wpAccepts = true) :
    (s.settleForWrite a be).wpAccepts = true := by
  unfold State.settleForWrite
  split
  · exact settleHolding_wpAccepts ha
  · dsimp only
    split <;> exact settleHolding_wpAccepts ha

end

/-- `P` is kept by every move of the part. A proof of an invariant gives these fields; `KeptByMoves.step` does the rest. -/
structure KeptByMoves (P : State → Prop) : Prop where
  pending : ∀ {s} (l : List Instr), P s → P { s with pending := l }
  link : ∀ {s} (k : Link), P s → P { s with link := k }
  time : ∀ {s} (b : TimeBase), P s → P { s with time := b }
  -- the part's own instants
  place : ∀ {s} {h : HeldWrite}, P s → s.held = some h → s.resetN = true → h.reason = .space → s.hasRoom h.dom = true →
    P (s.placeHeld h)
  drainEnd : ∀ {s} {e : Element} {rest : List Element}, P s → s.queue = e :: rest → s.resetN = true → e.phase = .draining →
    (s.dom e.dom).drainBank = [] → P (s.endDrain e rest)
  commit : ∀ {s} {d : Dom} {b : Boundary} {g l : Option Nat}, P s → (s.dom d).sched = .settle b g l → s.resetN = true →
    s.commitCondition d b = true → P (s.commit d b)
  release : ∀ {s} {h : HeldWrite}, P s → s.held = some h → s.resetN = true → h.reason = .flush →
    (s.dom h.dom).state = .off → P (s.releaseHeld h)
  begin : ∀ {s} {e : Element} {rest : List Element}, P s → s.queue = e :: rest → s.resetN = true → s.engine = .idle →
    e.phase = .queued → e.fence = false → P (s.beginBank e rest)
  restartDone : ∀ {s}, P s → s.resetN = true → s.device = .restarting → s.queue = [] → P s.completeRestart
  -- the memory port
  grant : ∀ {s} {w : Requester} {r : Request}, P s → s.resetN = true → s.arb.mp = none → s.arb.granted = none →
    s.arb.choose = some w → s.arb.request w = some r → P { s with arb := s.arb.grant w r s.memTimeout.toNat }
  deliver : ∀ {s} {o : Outstanding} (cancel err : Bool) (mem : Word), P s → s.resetN = true → s.arb.mp = some o →
    cancel = s.arb.cancel ∨ cancel = true →
    P (({ s with arb := { s.arb with mp := none, cancel := cancel } } : State).deliver o err mem)
  cancelEnds : ∀ {s}, P s → s.resetN = true → P s.endCancel
  -- the upstream ports
  answersEnd : ∀ {s}, P s → s.resetN = true → P s.endAnswers
  windowWrite : ∀ {s} {d : Dom} {a : Addr} (be : Lanes) (data : Word), P s → s.wpAccepts = true → s.classify a = some d →
    P (s.acceptWp.windowWrite d a be data)
  writerWritesThrough : ∀ {s} (a : Addr) (be : Lanes) (data : Word), P s → s.wpAccepts = true →
    P (s.acceptWp.presentWp { write := true, addr := a, be := be, data := data })
  writerReads : ∀ {s} (d : Dom) (a : Addr), P s → s.wpAccepts = true →
    P (s.acceptWp.startWpRead (s.wpLookup d a) (memoryRead a))
  writerReadsThrough : ∀ {s} (a : Addr) (be : Lanes) (data : Word), P s → s.wpAccepts = true →
    P (s.acceptWp.startWpRead (passThroughRead a) (passThroughRequest a be data))
  consumerReads : ∀ {s} (d : Dom) (a : Addr), P s → s.cpAccepts = true →
    P (s.acceptCp.startCpRead (s.cpLookup d a) (memoryRead a))
  consumerReadsThrough : ∀ {s} (a : Addr) (be : Lanes) (data : Word), P s → s.cpAccepts = true →
    P (s.acceptCp.startCpRead (passThroughRead a) (passThroughRequest a be data))
  consumerWritesThrough : ∀ {s} (a : Addr) (be : Lanes) (data : Word), P s → s.cpAccepts = true →
    P (s.acceptCp.presentCp { write := true, addr := a, be := be, data := data })
  consumerRefused : ∀ {s} (d : Dom), P s → s.cpAccepts = true → P (s.acceptCp.refuseCpWrite d)
  -- limits and lines
  timer : ∀ {s} (d : Dom), P s → s.resetN = true → (s.dom d).timer.isSome = true →
    P (s.updDom d fun x => { x with timer := some x.params.period.toNat })
  request : ∀ {s} (d : Dom) (c : Cause), P s → s.resetN = true → c ≠ .stop → P (s.request d c)
  groupHold : ∀ {s} (d : Dom), P s → s.resetN = true → P (s.updDom d Domain.expireGroupHold)
  sampleHold : ∀ {s} (d : Dom), P s → s.resetN = true → P (s.updDom d Domain.expireSampleHold)
  writeHold : ∀ {s} {h : HeldWrite}, P s → s.resetN = true → s.held = some h → P (s.expireHeld h)
  epochIn : ∀ {s} (d : Dom) (v : Bool), P s → s.resetN = true → P (s.updDom d fun x => { x with epochIn := v })
  sampleN : ∀ {s} (d : Dom) (v : Bool), P s → s.resetN = true → P (s.updDom d fun x => { x with sampleN := v })
  tick : ∀ {s}, P s → s.resetN = true → P s.tickLimits
  -- reset
  assertReset : ∀ {s}, P s → s.resetN = true → P s.assertReset
  released : ∀ {s} (l : Lines), P s → s.resetN = false →
    P (({ State.reset with
      dom0 := { Domain.reset with lost := s.dom0.lost }
      dom1 := { Domain.reset with lost := s.dom1.lost }
      recValid := s.recValid
      recHeldLost := s.recHeldLost
      pending := s.pending } : State).takeLines l)
  powerUp : ∀ (s : State) (high : Bool) (l : Lines),
    P (({ State.reset with
      resetN := high, arb := { Arbiter.reset with cancel := !high }, pending := s.pending } : State).takeLines l)
  -- setup link commands
  bumpDev : ∀ {s} (c : DevCounter), P s → P (s.bumpDev c)
  linkError : ∀ {s}, P s → P (s.raise .linkError)
  store : ∀ {s} {p : Param} {v : Word}, P s → s.resetN = true → p.inRange v = true → s.locks p v = false → P (s.store p v)
  clearPending : ∀ {s} (i : Fin 18), P s → P (s.clearPending i)
  clearDom : ∀ {s} (d : Dom), P s → P (s.clearDomCounters d)
  clearDev : ∀ {s}, P s → P s.clearDevCounters
  start : ∀ {s} {d : Dom}, P s → s.resetN = true → s.device = .running → (s.dom d).state = .off → s.tableFault d = none →
    P (s.updDom d Domain.started)
  stop : ∀ {s} {d : Dom}, P s → s.resetN = true → s.device = .running → (s.dom d).state = .active →
    P ((s.updDom d fun x => { x with state := .flushing false }).request d .stop)
  discard : ∀ {s} {d : Dom}, P s → s.resetN = true → s.device = .running → s.discardable d = true → P (s.discardOpen d)
  restart : ∀ {s}, P s → s.resetN = true → s.device = .running → P s.acceptRestart

namespace KeptByMoves

variable {P : State → Prop} {s t : State}

theorem onDomain (arg : Byte) {body : Dom → State → State × Reply} (hb : ∀ d, P (body d s).1) (h : P s) :
    P (onDomain arg body s).1 := by
  unfold Sys2Proof.Machine.onDomain
  split
  · exact hb _
  · exact h

theorem running_of_gate {c : Command} {u : State} (hc : c.always = false) (h : u.device = .running ∨ c.always = true) :
    u.device = .running := by
  simpa [hc] using h

theorem own (h : P s) {o : Option State} (ho : ∀ u, o = some u → P u) : P (o.getD s) := by
  cases o with
  | none => exact h
  | some u => exact ho u rfl

variable (K : KeptByMoves P)
include K

theorem advance {g : Hold} (h : P s) (ha : s.advance g = some t) : P t := by
  rcases advance_cases ha with h' | h' | ⟨d, -, h'⟩ | h' | h' | h' | ⟨-, h'⟩
  · obtain ⟨w, h1, h2, h3, h4, rfl⟩ := tryPlace_eq_some.1 h'; exact K.place h h1 h2 h3 h4
  · obtain ⟨e, r, h1, h2, h3, h4, rfl⟩ := tryDrainEnd_eq_some.1 h'; exact K.drainEnd h h1 h2 h3 h4
  · obtain ⟨b, g, l, h1, h2, h3, rfl⟩ := tryCommit_eq_some.1 h'; exact K.commit h h1 h2 h3
  · obtain ⟨w, h1, h2, h3, h4, rfl⟩ := tryRelease_eq_some.1 h'; exact K.release h h1 h2 h3 h4
  · obtain ⟨e, r, h1, h2, h3, h4, h5, rfl⟩ := tryBegin_eq_some.1 h'; exact K.begin h h1 h2 h3 h4 h5
  · obtain ⟨h1, h2, h3, rfl⟩ := tryRestart_eq_some.1 h'; exact K.restartDone h h1 h2 h3
  · obtain ⟨w, m, h1, h2, h3, h4, h5, rfl⟩ := tryGrant_eq_some.1 h'; exact K.grant h h1 h2 h3 h4 h5

theorem settleHolding (g : Hold) (h : P s) : P (s.settleHolding g) :=
  settleHolding_induct (fun _ _ h ha => K.advance h ha) h

theorem settle (h : P s) : P s.settle := K.settleHolding _ h

theorem withdraw (h : P s) (hr : s.resetN = true) : P s.withdraw := by
  unfold State.withdraw; split
  · exact h
  · next o ho => exact K.deliver true true 0 h hr ho (.inr rfl)

theorem answers (err : Bool) (mem : Word) {o : Outstanding} (h : P s) (hr : s.resetN = true) (ho : s.arb.mp = some o) :
    P (s.endAccess.deliver o err mem) := K.deliver s.arb.cancel err mem h hr ho (.inl rfl)

theorem expireTimer (d : Dom) (h : P s) (hr : s.resetN = true) : P (s.expireTimer d) := by
  unfold State.expireTimer; split
  · exact h
  · next n hn =>
    exact K.request d .timer (K.timer d h hr (by simp [hn])) (by simpa using hr) (by simp)

theorem lineEdge (d : Dom) (h : P s) (hr : s.resetN = true) : P (s.lineEdge d) := by
  unfold State.lineEdge; split
  · exact K.request d .line (K.epochIn d true h hr) (by simpa using hr) (by simp)
  · exact K.epochIn d true h hr

theorem expireWriteHold (h : P s) (hr : s.resetN = true) : P s.expireWriteHold := by
  unfold State.expireWriteHold; split
  · exact h
  · next w hw => exact K.writeHold h hr hw

/-- What is kept while RESET_N is high: `P`, and the level. -/
theorem settleHigh (h : P s ∧ s.resetN = true) : P s.settle ∧ s.settle.resetN = true :=
  ⟨K.settle h.1, settle_resetN.trans h.2⟩

theorem domExpiries (d : Dom) (h : P s ∧ s.resetN = true) : P (s.domExpiries d) ∧ (s.domExpiries d).resetN = true := by
  have h1 : ∀ {u : State}, P u ∧ u.resetN = true → P (u.endTimer d) ∧ (u.endTimer d).resetN = true := by
    intro u hu; unfold State.endTimer; split
    · exact ⟨K.expireTimer d hu.1 hu.2, (expireTimer_resetN d).trans hu.2⟩
    · exact hu
  have h2 : ∀ {u : State}, P u ∧ u.resetN = true → P (u.endGroupHold d) ∧ (u.endGroupHold d).resetN = true := by
    intro u hu; unfold State.endGroupHold; split
    · exact ⟨K.groupHold d hu.1 hu.2, by simpa using hu.2⟩
    · exact hu
  have h3 : ∀ {u : State}, P u ∧ u.resetN = true → P (u.endSampleHold d) ∧ (u.endSampleHold d).resetN = true := by
    intro u hu; unfold State.endSampleHold; split
    · exact ⟨K.sampleHold d hu.1 hu.2, by simpa using hu.2⟩
    · exact hu
  exact K.settleHigh (h3 (K.settleHigh (h2 (K.settleHigh (h1 h)))))

theorem endTick (h : P s) (hr : s.resetN = true) : P s.endTick := by
  unfold State.endTick
  refine (K.domExpiries .d1 (K.domExpiries .d0 (K.settleHigh ?_))).1
  have ht := K.tick (K.time { tick := s.time.tick + 1, clk := 0, tickLen := s.tickDiv } h) hr
  unfold State.endWriteHold; split
  · next w hw =>
    split
    · exact ⟨K.writeHold ht hr hw, by simpa [State.expireHeld, State.tickLimits] using hr⟩
    · exact ⟨ht, hr⟩
  · exact ⟨ht, hr⟩

theorem clkPeriod (h : P s) : P s.clkPeriod := by
  have he : ∀ {u : State}, P u ∧ u.resetN = true → P u.edgeOfMp ∧ u.edgeOfMp.resetN = true := by
    intro u hu; unfold State.edgeOfMp; split
    · split
      · exact ⟨K.withdraw hu.1 hu.2, withdraw_resetN.trans hu.2⟩
      · exact hu
    · exact hu
  unfold State.clkPeriod
  split
  · exact h
  · next hr =>
    have hr : s.resetN = true := by simpa using hr
    have h1 := K.settleHigh ⟨K.answersEnd h hr, hr⟩
    have := K.settleHigh (he (u := s.endAnswers.settle.endCancel) ⟨K.cancelEnds h1.1 h1.2, h1.2⟩)
    dsimp only
    split
    · exact K.time _ this.1
    · exact K.endTick this.1 this.2

theorem shiftFrame (f : Frame) (h : P s) : P (s.shiftFrame f) := K.link _ h

theorem respond (code tag : Byte) (r : Reply) (h : P s) : P (s.respond code tag r) := K.link _ h

theorem takeFrame {judge : State → State} (h : P s) (hj : s.resetN = true → P (judge s)) : P (s.takeFrame judge) := by
  unfold State.takeFrame
  split
  · exact h
  · next hr =>
    split
    · exact hj (by simpa using hr)
    · exact K.link _ h

/-- A command is safe if its body is, with RESET_N high, on a RUNNING device or for a command that both device states execute. -/
theorem linkCommand {c : Command} {arg : Byte} {data : Word} {tag : Byte} {body : State → State × Reply}
    (hb : ∀ u, P u → u.resetN = true → u.device = .running ∨ c.always = true → P (body u).1) (h : P s) :
    P (s.linkCommand c arg data tag body) := by
  refine K.takeFrame h fun hr => ?_
  have hf := K.shiftFrame (commandFrame c.code arg data tag) h
  dsimp only
  split
  · exact K.respond _ _ _ hf
  · next hg =>
    refine K.respond _ _ _ (hb _ hf hr ?_)
    unfold State.gate at hg
    split at hg
    · next hd => simpa using hd
    · split at hg <;> exact absurd hg (by simp)

theorem readOnly {c : Command} {arg : Byte} {data : Word} {tag : Byte} {reply : State → Reply} (h : P s) :
    P (s.linkCommand c arg data tag (reading reply)) := K.linkCommand (fun _ hu _ _ => hu) h

theorem writeParamBody (n : Byte) (v : Word) (h : P s) (hh : s.resetN = true) : P (writeParamBody n v s).1 := by
  unfold Sys2Proof.Machine.writeParamBody
  split
  · next p _ =>
    change P (s.writeParam p v)
    unfold State.writeParam
    split
    · next hr =>
      unfold State.writeResult at hr
      split at hr
      · exact absurd hr (by simp)
      · next hi =>
        split at hr
        · exact absurd hr (by simp)
        · next hl => exact K.store h hh (by simpa using hi) (by simpa using hl)
    · exact h
  · exact h

theorem ackEventBody (arg : Byte) (data : Word) (h : P s) : P (ackEventBody arg data s).1 := by
  unfold Sys2Proof.Machine.ackEventBody
  split
  · exact h
  · dsimp only
    split
    · exact h
    · split
      · exact K.clearPending _ h
      · exact h

theorem clearCountersBody (arg : Byte) (h : P s) : P (clearCountersBody arg s).1 := by
  unfold Sys2Proof.Machine.clearCountersBody
  split
  · exact K.clearDom .d0 h
  · exact K.clearDom .d1 h
  · exact K.clearDev h
  · exact K.clearDev (K.clearDom .d1 (K.clearDom .d0 h))
  · exact h

theorem startDomain (d : Dom) (hh : s.resetN = true) (hr : s.device = .running) (h : P s) : P (startDomain d s).1 := by
  unfold Sys2Proof.Machine.startDomain
  split
  · exact h
  · next hu =>
    split
    · exact h
    · next hf => exact K.start h hh hr (by simpa [State.inUse] using hu) hf

theorem stopDomain (d : Dom) (hh : s.resetN = true) (hr : s.device = .running) (h : P s) : P (stopDomain d s).1 := by
  unfold Sys2Proof.Machine.stopDomain
  split
  · next ha => exact K.stop h hh hr ha
  · exact h

theorem closeDomain (d : Dom) (hh : s.resetN = true) (h : P s) : P (closeDomain d s).1 := by
  unfold Sys2Proof.Machine.closeDomain
  split
  · exact K.request d .link h hh (by simp)
  · exact h

theorem discardDomain (d : Dom) (hh : s.resetN = true) (hr : s.device = .running) (h : P s) : P (discardDomain d s).1 := by
  unfold Sys2Proof.Machine.discardDomain
  split
  · next hd => exact K.discard h hh hr hd
  · exact h

theorem settleForFrame (arg : Byte) (c : Cause) (h : P s) : P (s.settleForFrame arg c) := by
  unfold State.settleForFrame
  split
  · exact K.settleHolding _ h
  · exact K.settle h

theorem executeFrame (code arg : Byte) (data : Word) (tag : Byte) (h : P s) (he : executeFrame code arg data tag s = .next t) :
    P t := by
  have hs := K.settle h
  unfold Sys2Proof.Machine.executeFrame at he
  split at he <;> cases he
  · exact K.takeFrame hs fun _ => K.respond _ _ _ (K.shiftFrame _ hs)
  · exact K.readOnly hs
  · exact K.readOnly hs
  · exact K.readOnly hs
  · exact K.readOnly hs
  · exact K.readOnly hs
  · exact K.readOnly hs
  · exact K.readOnly hs
  · exact K.linkCommand (fun _ hu hh _ => K.writeParamBody _ _ hu hh) hs
  · exact K.linkCommand (fun _ hu _ _ => K.ackEventBody _ _ hu) hs
  · exact K.linkCommand (fun _ hu _ _ => K.clearCountersBody _ hu) hs
  · exact K.linkCommand (fun _ hu hh hg => onDomain _ (fun d => K.startDomain d hh (running_of_gate rfl hg) hu) hu) hs
  · exact K.linkCommand (fun _ hu hh hg => onDomain _ (fun d => K.stopDomain d hh (running_of_gate rfl hg) hu) hu)
      (K.settleForFrame _ _ h)
  · exact K.linkCommand (fun _ hu hh _ => onDomain _ (fun d => K.closeDomain d hh hu) hu) (K.settleForFrame _ _ h)
  · exact K.linkCommand (fun _ hu hh hg => onDomain _ (fun d => K.discardDomain d hh (running_of_gate rfl hg) hu) hu) hs
  · exact K.linkCommand (fun _ hu hh hg => K.restart hu hh (running_of_gate rfl hg)) hs

theorem frameCheckFail (f : Frame) (h : P s) (he : execFrameCheckFail f s = .next t) : P t := by
  unfold execFrameCheckFail at he
  split at he
  · exact K.executeFrame _ _ _ _ h he
  · cases he
    have hs := K.settle h
    exact K.takeFrame hs fun _ => K.respond _ _ _ (K.linkError (K.bumpDev _ (K.shiftFrame _ hs)))

theorem settleForWrite (a : Addr) (be : Lanes) (h : P s) : P (s.settleForWrite a be) := by
  unfold State.settleForWrite
  split
  · exact K.settleHolding _ h
  · dsimp only
    split <;> exact K.settleHolding _ h

theorem writerWrite (a : Addr) (be : Lanes) (data : Word) (h : P s) :
    P (if (!s.wpAccepts) = true then s.settle
      else
        let s := s.settleForWrite a be
        match s.classify a with
        | some d => s.acceptWp.windowWrite d a be data
        | none => s.acceptWp.presentWp { write := true, addr := a, be := be, data := data }) := by
  split
  · exact K.settle h
  · next ha =>
    have ha := settleForWrite_wpAccepts a be (by simpa using ha)
    have hs := K.settleForWrite a be h
    dsimp only
    split
    · next d hd => exact K.windowWrite _ _ hs ha hd
    · exact K.writerWritesThrough _ _ _ hs ha

theorem writerRead (a : Addr) (be : Lanes) (data : Word) (h : P s) :
    P (if (!s.wpAccepts) = true then s.settle
      else
        let s := s.settleForAccess
        match s.classify a with
        | some d => s.acceptWp.startWpRead (s.wpLookup d a) (memoryRead a)
        | none => s.acceptWp.startWpRead (passThroughRead a) (passThroughRequest a be data)) := by
  split
  · exact K.settle h
  · next ha =>
    have ha : s.settleForAccess.wpAccepts = true := settleHolding_wpAccepts (by simpa using ha)
    have hs : P s.settleForAccess := K.settleHolding _ h
    dsimp only
    split
    · exact K.writerReads _ _ hs ha
    · exact K.writerReadsThrough _ _ _ hs ha

theorem consumerRead (a : Addr) (be : Lanes) (data : Word) (h : P s) :
    P (if (!s.cpAccepts) = true then s.settle
      else
        let s := s.settleForAccess
        match s.classify a with
        | some d => s.acceptCp.startCpRead (s.cpLookup d a) (memoryRead a)
        | none => s.acceptCp.startCpRead (passThroughRead a) (passThroughRequest a be data)) := by
  split
  · exact K.settle h
  · next ha =>
    have ha : s.settleForAccess.cpAccepts = true := settleHolding_cpAccepts (by simpa using ha)
    have hs : P s.settleForAccess := K.settleHolding _ h
    dsimp only
    split
    · exact K.consumerReads _ _ hs ha
    · exact K.consumerReadsThrough _ _ _ hs ha

theorem consumerWrite (a : Addr) (be : Lanes) (data : Word) (h : P s) :
    P (if (!s.cpAccepts) = true then s.settle
      else
        let s := s.settleForAccess
        match s.classify a with
        | some d => s.acceptCp.refuseCpWrite d
        | none => s.acceptCp.presentCp { write := true, addr := a, be := be, data := data }) := by
  split
  · exact K.settle h
  · next ha =>
    have ha : s.settleForAccess.cpAccepts = true := settleHolding_cpAccepts (by simpa using ha)
    have hs : P s.settleForAccess := K.settleHolding _ h
    dsimp only
    split
    · exact K.consumerRefused _ hs ha
    · exact K.consumerWritesThrough _ _ _ hs ha

theorem risingEdge (d : Dom) (h : P s) :
    P (let s := s.settleForRequest d .line
      if s.resetN && !(s.dom d).epochIn then s.lineEdge d else s) := by
  have hl : P (s.settleForRequest d .line) := K.settleHolding _ h
  dsimp only
  split
  · next hr =>
    simp only [Bool.and_eq_true] at hr
    exact K.lineEdge _ hl hr.1
  · exact hl

/-- Every command keeps what every move keeps. -/
theorem exec (i : Instr) (h : P s) (he : exec i s = .next t) : P t := by
  have hs := K.settle h
  unfold Sys2Proof.Machine.exec at he
  split at he
  case h_23 => -- TORN_FRAME
    unfold execTornFrame at he
    split at he
    · exact K.frameCheckFail _ h he
    · cases he
      exact K.takeFrame hs fun _ => K.linkError (K.bumpDev _ (K.link _ hs))
  case h_24 => exact K.frameCheckFail _ h he
  case h_25 => exact K.executeFrame _ _ _ _ h he
  all_goals cases he
  · exact K.writerWrite _ _ _ h
  · exact K.writerRead _ _ _ h
  · exact K.consumerRead _ _ _ h
  · exact K.consumerWrite _ _ _ h
  · refine own h fun u hu => ?_
    obtain ⟨w, m, h1, h2, h3, h4, h5, rfl⟩ := tryGrant_eq_some.1 hu
    exact K.grant h h1 h2 h3 h4 h5
  · split
    · exact hs
    · next hr =>
      split
      · exact hs
      · next o ho => exact K.answers _ _ hs (by simpa using hr) ho
  · split
    · next hr =>
      simp only [Bool.and_eq_true] at hr
      exact K.settle (K.withdraw hs hr.1)
    · exact hs
  · split
    · next hr => exact K.expireTimer _ (K.settleHolding _ h) (settleHolding_resetN.trans hr)
    · exact h
  · exact K.risingEdge _ h
  · split
    · next hr => exact K.sampleN _ _ hs hr
    · exact hs
  · split
    · next hr => exact K.groupHold _ hs hr
    · exact hs
  · split
    · next hr => exact K.sampleHold _ hs hr
    · exact hs
  · split
    · next hr => exact K.expireWriteHold hs hr
    · exact hs
  · refine own h fun u hu => ?_
    obtain ⟨b, g, l, h1, h2, h3, rfl⟩ := tryCommit_eq_some.1 hu
    exact K.commit h h1 h2 h3
  · refine own h fun u hu => ?_
    obtain ⟨w, h1, h2, h3, h4, rfl⟩ := tryPlace_eq_some.1 hu
    exact K.place h h1 h2 h3 h4
  · refine own h fun u hu => ?_
    obtain ⟨w, h1, h2, h3, h4, rfl⟩ := tryRelease_eq_some.1 hu
    exact K.release h h1 h2 h3 h4
  · refine own h fun u hu => ?_
    obtain ⟨e, r, h1, h2, h3, h4, h5, rfl⟩ := tryBegin_eq_some.1 hu
    exact K.begin h h1 h2 h3 h4 h5
  · refine own h fun u hu => ?_
    obtain ⟨e, r, h1, h2, h3, h4, rfl⟩ := tryDrainEnd_eq_some.1 hu
    exact K.drainEnd h h1 h2 h3 h4
  · refine own h fun u hu => ?_
    obtain ⟨h1, h2, h3, rfl⟩ := tryRestart_eq_some.1 hu
    exact K.restartDone h h1 h2 h3
  · split
    · next hr => exact K.assertReset hs hr
    · exact hs
  · split
    · exact h
    · next hr => exact K.released _ h (by simpa using hr)
  · exact K.powerUp s _ _
  · exact K.readOnly hs
  · exact K.readOnly hs
  · exact K.linkCommand (fun _ hu hh _ => K.writeParamBody _ _ hu hh) hs
  · exact K.linkCommand (fun _ hu hh _ => K.writeParamBody _ _ hu hh) hs
  · exact K.linkCommand (fun _ hu hh _ => K.writeParamBody _ _ hu hh) hs
  · exact K.readOnly hs
  · exact K.readOnly hs
  · exact K.linkCommand (fun _ hu _ _ => K.ackEventBody _ _ hu) hs
  · exact K.readOnly hs
  · exact K.linkCommand (fun _ hu _ _ => K.clearCountersBody _ hu) hs
  · exact K.readOnly hs
  · exact K.readOnly hs
  · exact K.linkCommand (fun _ hu hh hg => onDomain _ (fun d => K.startDomain d hh (running_of_gate rfl hg) hu) hu) hs
  · exact K.linkCommand (fun _ hu hh hg => onDomain _ (fun d => K.stopDomain d hh (running_of_gate rfl hg) hu) hu)
      (K.settleForFrame _ _ h)
  · exact K.linkCommand (fun _ hu hh _ => onDomain _ (fun d => K.closeDomain d hh hu) hu) (K.settleForFrame _ _ h)
  · exact K.linkCommand (fun _ hu hh hg => onDomain _ (fun d => K.discardDomain d hh (running_of_gate rfl hg) hu) hu) hs
  · exact K.linkCommand (fun _ hu hh hg => K.restart hu hh (running_of_gate rfl hg)) hs
  · split
    · next hr => exact K.epochIn _ _ hs hr
    · exact hs

/-- Every step keeps what every move keeps. -/
theorem step (h : P s) (he : step s = .next t) : P t := by
  unfold Sys2Proof.Machine.step at he
  split at he
  · exact K.exec _ (K.pending _ h) he
  · cases he; exact K.clkPeriod h

end KeptByMoves

end Sys2Proof.Machine
end

