-- ==== Sys2Proof/Tests/Slice0.lean ====
section
/-! SUPPORT. Tests of the model: ill-formed operands refused, the check byte of the manual's examples, single steps on small
states, and for each statement with hypotheses a state and operands that meet them together. -/

namespace Sys2Proof.Tests

open Sys2Proof.Machine

/-! ### Small states -/

/-- Window 0: enabled, four words from address 0, of domain 0. -/
def window0 : Window := { enable := true, dom := .d0, k := 2, base := 0 }

/-- Domain 0 set up with window 0 and still OFF. -/
def configured : State := { State.reset with windows := State.reset.windows.set 0 window0 }

/-- Domain 0 ACTIVE. -/
def active : State := { configured with dom0 := { Domain.reset with state := .active } }

/-- Group 0: words 0 and 1 of window 0; its closing word is 1. -/
def group0 : Group := { enable := true, window := 0, offset := 0, length := 2 }

/-- Domain 0 ACTIVE with group 0 in force. -/
def grouped : State := { active with groups := active.groups.set 0 group0 }

/-- An entry for word 1. -/
def entry1 : Entry := { addr := 1, data := 0x11223344, mask := 0xF, tag := none }

/-- An entry for word 2 with two lanes. -/
def entry2 : Entry := { addr := 2, data := 0x3344, mask := 0x3, tag := none }

/-- Change domain 0. -/
def with0 (s : State) (f : Domain → Domain) : State := s.updDom .d0 f

/-- Domain 0 with one entry in its open bank. -/
def written : State := { with0 active (fun x => { x with openBank := [entry1] }) with free := 511 }

/-- A pending boundary with cause LINK. -/
def linked : Boundary := Boundary.create .link 0

/-- A pending boundary with cause STOP. -/
def stopped : Boundary := Boundary.create .stop 0

/-- Domain 0 in SETTLE with one entry and both limits running. -/
def settling : State := with0 written fun x => { x with sched := .settle linked (some 3) (some 3) }

/-- The drain queue element of domain 0's bank. -/
def element0 : Element :=
  { dom := .d0, epoch := 1, serial := 1, fence := false, phase := .draining, committed := 1, retired := 0 }

/-- A request for memory. -/
def request0 : Request := { write := false, addr := 9, be := 0xF, data := 0 }

/-- An access on MP. -/
def issued (w : Requester) (r : Request) : Arbiter := { Arbiter.reset with mp := some { who := w, req := r, left := 16 } }

/-- The history record of domain 0's first commit point, with one entry. -/
def record1 : HistoryRecord :=
  { serial := 1, dom := .d0, epoch := 1, causes := ⟨false, false, false, true, false⟩, merged := 0, final := false, empty := false
    sampleOverride := false, abandoned := 0, committed := 1, waitTicks := 0, drain := .pending, lost := 0 }

/-- Domain 0 draining one entry, its write on MP. -/
def draining : State :=
  { with0 active (fun x => { x with drainBank := [entry1], epoch := 1 }) with
    free := 511, queue := [element0], engine := .writing, arb := issued .drain entry1.drainWrite
    history := [record1], serial := 1 }

/-- A held write of domain 0. -/
def heldFor (r : HeldReason) : HeldWrite :=
  { addr := 3, be := 0xF, data := 7, dom := .d0, reason := r, start := 0, left := 1 }

/-- A write held. -/
def holding (s : State) (r : HeldReason) : State :=
  { s with held := some (heldFor r), wp := { Port.reset with busy := true } }

/-- What a command leaves. -/
def after (c : Instr) (s : State) : State :=
  match exec c s with
  | .next t => t
  | .fault _ => s
  | .refused _ => s

/-! ### Well-formedness -/

theorem test_torn_frame_of_64_bits_is_ill_formed : (Instr.tornFrame (List.replicate 64 true)).wellFormed = false := by decide
theorem test_torn_frame_of_40_bits_is_well_formed : (Instr.tornFrame (List.replicate 40 true)).wellFormed = true := by decide
theorem test_failing_frame_with_right_check_is_ill_formed :
    (Instr.frameCheckFail 0x0000000000000107).wellFormed = false := by decide +kernel
theorem test_failing_frame_with_wrong_check_is_well_formed :
    (Instr.frameCheckFail 0x0000000000000108).wellFormed = true := by decide +kernel
theorem test_known_code_is_no_unknown_command : (Instr.unknownCommand 0x3A 0 0 0).wellFormed = false := by decide
theorem test_unlisted_code_is_unknown : (Instr.unknownCommand 0x17 0 0 0).wellFormed = true := by decide

/-! ### The check byte (R152) -/

theorem test_crc_of_one_in_byte_6 : crc8 0x00000000000001 = 0x07 := by decide +kernel
theorem test_crc_of_zeros : crc8 0 = 0x00 := by decide +kernel
theorem test_response_after_reset_is_none : State.reset.response.result = .none := by decide

/-! ### Single steps -/

theorem test_writer_write_appends : (after (.writerPortWrite 1 0x3 0xAABBCCDD) active).dom0.openBank =
    [{ addr := 1, data := 0xCCDD, mask := 0x3, tag := none }] := by decide
theorem test_writer_write_takes_a_slot : (after (.writerPortWrite 1 0x3 0xAABBCCDD) active).free = 511 := by decide
theorem test_writer_write_coalesces : (after (.writerPortWrite 1 0x1 0xFF) written).dom0.openBank =
    [{ addr := 1, data := 0x112233FF, mask := 0xF, tag := none }] := by decide
theorem test_writer_read_sees_the_open_bank : (after (.writerPortRead 1 ⟨0x1, 0⟩) written).wp.answer =
    some { err := false, rdata := 0x11223344 } := by decide
theorem test_consumer_read_asks_memory : (after (.consumerPortRead 1 ⟨0x1, 0⟩) written).arb.cpReq =
    some { write := false, addr := 1, be := 0xF, data := 0 } := by decide
theorem test_consumer_write_is_refused : (after (.consumerPortWrite 1 0xF 0) active).cp.answer =
    some { err := true, rdata := 0 } := by decide
theorem test_consumer_write_elsewhere_passes : (after (.consumerPortWrite 4 0xF 6) active).arb.cpReq =
    some { write := true, addr := 4, be := 0xF, data := 6 } := by decide
theorem test_non_closing_write_opens_the_group :
    (after (.writerPortWrite 0 0xF 1) grouped).groupState 0 = .opened := by decide
theorem test_closing_write_completes_the_group :
    (after (.writerPortWrite 1 0xF 1) grouped).groupState 0 = .complete := by decide
theorem test_commit_point_moves_the_bank : (after (.commitPoint .d0) settling).dom0.drainBank = [entry1] := by decide
theorem test_commit_point_numbers_the_epoch : (after (.commitPoint .d0) settling).dom0.epoch = 1 := by decide
theorem test_commit_point_queues_the_drain : (after (.commitPoint .d0) settling).queue.length = 1 := by decide
theorem test_low_sample_holds_the_commit_back :
    (with0 settling fun x => { x with sampleN := false }).tryCommit .d0 = none := by decide
theorem test_grant_prefers_the_consumer : (after .memoryGrant { State.reset with
    arb := { Arbiter.reset with cpReq := some request0, wpReq := some request0 } }).arb.mp.map Outstanding.who = some .cp := by decide
theorem test_guarded_writer_is_granted : (after .memoryGrant { State.reset with
    arb := { Arbiter.reset with cpReq := some request0, wpReq := some request0, wpWait := 8 } }).arb.mp.map Outstanding.who = some .wp := by decide
theorem test_drain_answer_retires : (after (.memoryAnswer false 0) draining).free = 512 := by decide
theorem test_lost_drain_write_is_counted :
    (after (.memoryAnswer true 0) draining).counter .d0 .lostEntries = 1 := by decide
theorem test_timeout_raises_cancel : (after .memTimeoutExpiry draining).mpCancel = true := by decide
theorem test_start_makes_active : (after (.start 0 0 9) configured).dom0.state = .active := by decide
theorem test_start_without_window_is_refused :
    (after (.start 1 0 9) configured).response.result = .invalidTable := by decide
theorem test_start_without_window_names_the_kind : (after (.start 1 0 9) configured).response.data = 0x100 := by decide
theorem test_close_commits_at_once : (after (.close 0 0 9) written).settle.dom0.drainBank = [entry1] := by decide
theorem test_stop_of_an_empty_domain_goes_off :
    (after (.stop 0 0 9) active).settle.dom0.state = .off := by decide
theorem test_locked_window_is_kept :
    (after (.writeParam 0x40 8 9) active).response.result = .locked := by decide
theorem test_win_ctrl_resets_to_0x20 : (after (.readParam 0x41 0 9) State.reset).response.data = 0x20 := by decide
theorem test_grp_resets_to_0x02000000 :
    (after (.readParam 0x60 0 9) State.reset).response.data = 0x02000000 := by decide
theorem test_restart_with_empty_queue_completes_at_once :
    (after (.restart 0 0 9) active).settle.device = .running := by decide
theorem test_restart_done_count_is_one :
    (after (.restart 0 0 9) active).settle.event .restartDone = { pending := true, count := 1 } := by decide
theorem test_reset_records_the_lost_entries : (after .resetNAssertion written).dom0.lost.openLost = 1 := by decide
theorem test_tick_ends_after_tick_div_periods :
    ({ State.reset with time := { tick := 4, clk := 99, tickLen := 100 } } : State).clkPeriod.time =
      { tick := 5, clk := 0, tickLen := 100 } := by decide

theorem test_placing_on_the_idle_step_is_answered :
    (holding active .space).clkPeriod.wp = { busy := false, answer := some { err := false, rdata := 0 } } := by decide
theorem test_access_does_not_hide_the_placing :
    (after (.writerPortWrite 9 0xF 1) (holding active .space)).wp =
      { busy := false, answer := some { err := false, rdata := 0 } } := by decide
theorem test_pass_through_read_carries_its_data : (after (.consumerPortRead 9 ⟨0x1, 5⟩) active).arb.cpReq =
    some { write := false, addr := 9, be := 0x1, data := 5 } := by decide

/-- Domain 0 ACTIVE with its line enabled. -/
def lined : State := with0 active fun x => { x with params := { x.params with lineEn := true } }

theorem test_requests_together_merge :
    (after (.epochInRisingEdge .d0) (after (.close 0 0 9) lined)).dom0.sched =
      .settle ((Boundary.create .link 0).merge .line) (some 20) (some 100) := by decide
theorem test_commit_point_between_requests :
    (after (.epochInRisingEdge .d0) (after (.commitPoint .d0) (after (.close 0 0 9) lined))).dom0.sched =
      .settle (Boundary.create .line 0) (some 20) (some 100) := by decide
theorem test_requests_of_one_source_do_not_meet :
    (after (.close 0 0 9) (after (.close 0 0 9) active)).dom0.epoch = 1 := by decide
theorem test_lone_request_is_granted_at_once :
    ((after (.consumerPortRead 9 ⟨0x1, 5⟩) active).clkPeriod.arb.mp.map Outstanding.who) = some .cp := by decide
theorem test_requests_together_are_weighed :
    (after .memoryGrant (after (.consumerPortRead 9 ⟨0x1, 5⟩) (after (.writerPortRead 9 ⟨0x1, 5⟩) active))).arb.wpWait = 1 := by
  decide

/-- A drain write on MP while a writer's access waits. -/
def waiting : State :=
  { draining with arb := { draining.arb with wpReq := some request0 }, wp := { Port.reset with busy := true } }

theorem test_grant_at_the_cancel_edge_waits_for_its_issue :
    (after .memTimeoutExpiry waiting).arb.granted = some { who := .wp, req := request0 } ∧
      (after .memTimeoutExpiry waiting).mpReq = false ∧ (after .memTimeoutExpiry waiting).mpCancel = true := by decide
theorem test_request_in_the_cancel_period_does_not_overtake :
    (after (.consumerPortRead 9 ⟨0x1, 5⟩) (after .memTimeoutExpiry waiting)).clkPeriod.mpRequest = some request0 := by decide
theorem test_record_of_the_other_domain_is_left :
    (after (.memoryAnswer true 0) { draining with history := [{ record1 with dom := .d1 }] }).history =
      [{ record1 with dom := .d1 }] := by decide
theorem test_torn_frame_presents_its_bits :
    (after (.tornFrame [true, true, false]) active).link.presented.length = 3 ∧
      (after (.tornFrame [true, true, false]) active).slDo = none := by decide
theorem test_link_presents_while_receiving :
    ((State.reset.link.selectFall 0x4000000000000000).clock 0x4000000000000000 true).slDo = some true := by decide
theorem test_rise_without_a_fall_judges_nothing :
    (after (.nop 0 0 9) { active with link := { active.link with selN := false } }).response.result = .none := by decide

/-! ### States for the witnesses -/

/-- What is said of both domains. -/
theorem onBoth {P : Dom → Prop} (h0 : P .d0) (h1 : P .d1) : ∀ d, P d := by
  intro d
  cases d
  · exact h0
  · exact h1

/-- RESET_N low. -/
def low : State := { active with resetN := false }

/-- The device RESTARTING while domain 0 drains. -/
def restarting : State := { draining with device := .restarting }

/-- Domain 0 past its final commit point, its bank draining. -/
def flushed : State := with0 draining fun x => { x with state := .flushing true }

/-- Domain 0 FLUSHING before its final commit point. -/
def flushing : State := with0 written fun x => { x with state := .flushing false, sched := .settle stopped (some 3) none }

/-- The draining bank has just emptied: the drain end is due. -/
def drained : State :=
  { with0 active (fun x => { x with epoch := 1 }) with
    queue := [{ element0 with retired := 1 }], engine := .writing }

/-- A bank committed and not begun. -/
def queued : State :=
  { draining with queue := [{ element0 with phase := .queued }], engine := .idle, arb := Arbiter.reset }

/-- Domain 0's open bank at its quota of 0 entries: no room. -/
def full (p : FullPolicy) : State :=
  with0 active fun x => { x with params := { x.params with quota := 0, policy := p } }

/-- The pool is empty. -/
def poolEmpty (p : FullPolicy) : State :=
  { with0 active (fun x => { x with params := { x.params with policy := p } }) with free := 0 }

/-- Group 0 OPEN with its entry in the bank, both limits expired and SAMPLE_N0 low. -/
def torn : State :=
  { with0 grouped (fun x => { x with
      openBank := [{ entry1 with addr := 0, tag := some 0 }]
      sampleN := false
      sched := .settle { linked with groupExpired := true, sampleExpired := true } none none }) with
    free := 511, groupStates := State.reset.groupStates.set 0 .opened }

/-- An access of a requester on MP, and the records of two reads in MEMORY_WAIT. -/
def reading (w : Requester) (write : Bool) : State :=
  { State.reset with
    arb := issued w { request0 with write := write }
    wp := { Port.reset with busy := true }
    cp := { Port.reset with busy := true }
    wpRead := some (passThroughRead 9)
    cpRead := some { addr := 9, path := .resolved .d0, covered := 1, bytes := 7, fenced := true } }

/-- Nothing is due in these states: the state in which a command finds the part is the state itself. -/
theorem test_small_states_are_settled :
    [active, grouped, written, draining, restarting, flushed, full .wait, full .early, full .refuse, poolEmpty .wait,
      poolEmpty .early, poolEmpty .refuse, reading .cp true, reading .wp false, low].all (fun s => decide (s.settle = s)) = true := by
  decide

/-! ### Witnesses: a state and operands that meet the hypotheses of a statement together, one for each clause -/

theorem test_witness_StepRunsTheFrontCommand :
    ({ active with pending := [.memoryGrant, .drainEnd] } : State).pending = .memoryGrant :: [.drainEnd] := by decide
/-- In the last CLK period of a tick. -/
def lastPeriod (s : State) : State := { s with time := { tick := 0, clk := 99, tickLen := 100 } }

theorem test_witness_IdleStepPassesOneClkPeriod :
    low.pending = [] ∧ active.pending = [] ∧ active.resetN = true ∧ active.advance {} = none ∧
      active.arb.granted = none ∧ active.arb.mp = none ∧ active.time.clk + 1 < active.time.tickLen.toNat ∧
      (lastPeriod active).time.tickLen.toNat ≤ (lastPeriod active).time.clk + 1 := by decide

/-- A limit of domain 0 with one tick left, and none other. -/
def oneLeft (f : Domain → Domain) : State := lastPeriod (with0 grouped f)

theorem test_witness_IdleStepPassesOneClkPeriod_timer :
    (oneLeft fun x => { x with timer := some 1 }).oneTickOff.dom0.timer = some 0 ∧
      (oneLeft fun x => { x with timer := some 1 }).oneTickOff.dom1.timer = none ∧
      (oneLeft fun x => { x with timer := some 1 }).oneTickOff.held = none := by decide
theorem test_witness_IdleStepPassesOneClkPeriod_holds :
    (oneLeft fun x => { x with sampleN := false, sched := .settle linked (some 1) (some 9) }).oneTickOff.dom0.sched =
      .settle linked (some 0) (some 8) ∧
    (oneLeft fun x => { x with sampleN := false, sched := .settle linked (some 9) (some 1) }).oneTickOff.dom0.sched =
      .settle linked (some 8) (some 0) ∧
    (oneLeft fun x => { x with sampleN := false, sched := .settle linked (some 9) (some 1) }).advance {} = none := by decide
theorem test_witness_IdleStepPassesOneClkPeriod_held :
    (lastPeriod (holding flushed .flush)).oneTickOff.held = some { heldFor .flush with left := 0 } ∧
      (lastPeriod (holding flushed .flush)).advance {} = none := by decide
theorem test_witness_InstantsOccurWhenDue_blocked :
    ({ with0 torn (fun x => { x with sched := .settle linked (some 3) (some 3), sampleN := true }) with resetN := true } :
      State).groupState 0 = .opened ∧ linked.groupExpired = false ∧
    (with0 settling fun x => { x with sampleN := false }).dom0.sampleN = false ∧ linked.sampleExpired = false := by decide
theorem test_witness_InstantsOccurWhenDue_waiting :
    (holding (full .wait) .space).dom0.params.quota.toNat ≤ (holding (full .wait) .space).dom0.openBank.length ∧
      (holding flushed .flush).dom0.state ≠ .off ∧ draining.engine ≠ .idle ∧ draining.dom0.drainBank ≠ [] ∧
      restarting.queue ≠ [] ∧ draining.arb.mp.isSome = true := by decide
theorem test_witness_InstantsOccurWhenDue_fill :
    (({ with0 (full .early) (fun x => { x with sched := .settle (Boundary.create .line 0) (some 3) (some 3) }) with free := 512 } :
      State).settleForWrite 3 1).dom0.sched = .settle (Boundary.create .line 0) (some 3) (some 3) := by decide
theorem test_witness_CommitPointEndsTheEpoch_plain :
    settling.resetN = true ∧ settling.dom0.sched = .settle linked (some 3) (some 3) ∧
      (∀ i : Fin 16, settling.groupDom i = .d0 → settling.groupState i ≠ .opened) ∧ settling.dom0.sampleN = true := by
  decide
theorem test_witness_CommitPointEndsTheEpoch_override :
    torn.resetN = true ∧
      torn.dom0.sched = .settle { linked with groupExpired := true, sampleExpired := true } none none ∧
      torn.openGroups .d0 = [0] ∧ torn.dom0.sampleN = false := by decide
theorem test_witness_CommitPointEndsTheEpoch_final :
    flushing.resetN = true ∧ flushing.dom0.sched = .settle stopped (some 3) none ∧ stopped.final = true ∧
      (∀ i : Fin 16, flushing.groupDom i = .d0 → flushing.groupState i ≠ .opened) ∧ flushing.dom0.sampleN = true := by
  decide
theorem test_witness_HeldWriteIsPlacedWhenThereIsRoom :
    (holding active .space).held = some (heldFor .space) ∧ (holding active .space).resetN = true ∧
      (holding active .space).dom0.openBank.length < (holding active .space).dom0.params.quota.toNat ∧
      1 ≤ (holding active .space).free := by decide
theorem test_witness_FlushedWriteIsReleasedToMemory :
    (holding configured .flush).held = some (heldFor .flush) ∧ (holding configured .flush).resetN = true ∧
      (holding configured .flush).dom0.state = .off := by decide
theorem test_witness_DrainBankBegins :
    queued.resetN = true ∧ queued.engine = .idle ∧ queued.queue = [{ element0 with phase := .queued }] ∧
      queued.dom0.drainBank = [entry1] := by decide
theorem test_witness_DrainEndCompletesTheRecord :
    drained.resetN = true ∧ drained.queue = [{ element0 with retired := 1 }] ∧ drained.dom0.drainBank = [] := by decide
theorem test_witness_RestartCompletesInOrder :
    ({ holding configured .restart with device := .restarting } : State).resetN = true ∧
      ({ holding configured .restart with device := .restarting } : State).device = .restarting ∧
      ({ holding configured .restart with device := .restarting } : State).queue = [] := by decide

theorem test_witness_WriteCoalescesIntoItsEntry :
    written.settleForWrite 1 1 = written ∧ written.resetN = true ∧ written.wp.busy = false ∧ written.classify 1 = some .d0 ∧
      (1 : Lanes) ≠ 0 ∧ written.journals .d0 ∧ ∃ e ∈ written.dom0.openBank, e.addr = 1 := by decide
theorem test_witness_WriteAppendsANewEntry :
    written.settleForWrite 3 1 = written ∧ written.resetN = true ∧ written.wp.busy = false ∧ written.classify 3 = some .d0 ∧
      (1 : Lanes) ≠ 0 ∧ written.journals .d0 ∧ (∀ e ∈ written.dom0.openBank, e.addr ≠ 3) ∧
      written.dom0.openBank.length < written.dom0.params.quota.toNat ∧ 1 ≤ written.free := by decide
theorem test_witness_FullPolicyDecidesWithoutRoom : ∀ p ∈ [FullPolicy.wait, .early, .refuse],
    (full p).settleForWrite 3 1 = full p ∧ (full p).resetN = true ∧ (full p).wp.busy = false ∧ (full p).classify 3 = some .d0 ∧
      (full p).journals .d0 ∧ (∀ e ∈ (full p).dom0.openBank, e.addr ≠ 3) ∧
      (full p).dom0.params.quota.toNat ≤ (full p).dom0.openBank.length ∧ (full p).dom0.params.policy = p := by
  decide
theorem test_witness_FullPolicyDecidesWithoutRoom_pool : ∀ p ∈ [FullPolicy.wait, .early, .refuse],
    (poolEmpty p).settleForWrite 3 1 = poolEmpty p ∧ (poolEmpty p).resetN = true ∧ (poolEmpty p).wp.busy = false ∧
      (poolEmpty p).classify 3 = some .d0 ∧ (poolEmpty p).journals .d0 ∧
      (∀ e ∈ (poolEmpty p).dom0.openBank, e.addr ≠ 3) ∧ (poolEmpty p).free = 0 ∧
      (poolEmpty p).dom0.params.policy = p := by decide
theorem test_witness_LateWindowWriteIsHeld :
    (restarting.settleForWrite 3 1 = restarting ∧ restarting.resetN = true ∧ restarting.wp.busy = false ∧
      restarting.classify 3 = some .d0 ∧ restarting.device = .restarting) ∧
    (flushed.settleForWrite 3 1 = flushed ∧ flushed.resetN = true ∧ flushed.wp.busy = false ∧ flushed.classify 3 = some .d0 ∧
      flushed.device = .running ∧ flushed.dom0.state = .flushing true) := by decide
theorem test_witness_window_accesses_are_taken :
    written.settleForAccess = written ∧ written.settleForWrite 3 0 = written ∧ written.resetN = true ∧ written.wp.busy = false ∧ written.cp.busy = false ∧
      written.classify 0 = some .d0 ∧ written.classify 3 = some .d0 := by decide
theorem test_witness_PassThroughAccessIsPresented :
    written.settleForAccess = written ∧ written.settleForWrite 4 1 = written ∧ written.resetN = true ∧ written.wp.busy = false ∧ written.cp.busy = false ∧
      written.classify 4 = none ∧ State.reset.classify 0xFFFFFF = none := by decide
theorem test_witness_WriterReadLooksInBothBanks :
    written.classify 1 = some .d0 ∧ written.wp.busy = false ∧
      (written.dom0.drainBank.lanes 1).1 ||| (written.dom0.openBank.lanes 1).1 = 0xF ∧
      (written.dom0.drainBank.lanes 2).1 ||| (written.dom0.openBank.lanes 2).1 ≠ 0xF := by decide
theorem test_witness_ConsumerReadLooksInTheDrainingBank :
    draining.settleForAccess = draining ∧ draining.resetN = true ∧ draining.cp.busy = false ∧ draining.classify 1 = some .d0 ∧
      (draining.dom0.drainBank.lanes 1).1 = 0xF ∧ (draining.dom0.drainBank.lanes 2).1 ≠ 0xF := by decide

/-- Requests of all three, the writer's passed eight times. -/
def contended (n : Nat) : Arbiter :=
  { Arbiter.reset with cpReq := some request0, drainReq := some request0, wpReq := some request0, wpWait := n }

theorem test_witness_GrantGoesToTheFavouredRequester :
    (contended 7).favours .cp ∧ (contended 8).favours .wp ∧ Arbiter.favours { contended 0 with cpReq := none } .drain := by
  refine ⟨.inr ⟨?_, ?_⟩, .inl ⟨?_, ?_⟩, .inr ⟨?_, ?_⟩⟩
  · intro r; cases r <;> simp [Arbiter.guarded, contended, Arbiter.request, Arbiter.wait, Arbiter.reset]
  · intro r; cases r <;> simp [Requester.rank]
  · simp [Arbiter.guarded, contended, Arbiter.request, Arbiter.wait]
  · intro r; cases r <;> simp [Arbiter.guarded, contended, Arbiter.request, Arbiter.wait, Arbiter.reset]
  · intro r; cases r <;> simp [Arbiter.guarded, contended, Arbiter.request, Arbiter.wait, Arbiter.reset]
  · intro r; cases r <;> simp [Requester.rank, Arbiter.request]
theorem test_witness_GrantGoesToTheFavouredRequester_free_port : ∀ n ∈ [7, 8],
    (contended n).mp = none ∧ (contended n).granted = none ∧ ({ active with arb := contended n } : State).resetN = true := by
  decide
theorem test_witness_GrantGoesToTheFavouredRequester_no_grant :
    (reading .cp true).arb.mp.isSome = true ∧ (after .memTimeoutExpiry waiting).arb.granted.isSome = true ∧
      (∀ w ∈ [Requester.cp, .drain, .wp], State.reset.arb.request w = none) := by decide
theorem test_witness_DrainAnswerRetiresTheEntry :
    draining.settle.arb.mp = some { who := .drain, req := entry1.drainWrite, left := 16 } ∧
      draining.settle.queue = [element0] ∧ draining.settle.dom0.drainBank = [entry1] ∧ draining.settle.resetN = true := by
  decide
theorem test_witness_memory_answers_find_their_owner : ∀ w ∈ [true, false], ∀ r ∈ [Requester.cp, .wp],
    (reading r w).settle = reading r w ∧ (reading r w).resetN = true ∧
      (reading r w).arb.mp = some { who := r, req := { request0 with write := w }, left := 16 } ∧
      (reading r w).cpRead.isSome = true ∧ (reading r w).wpRead.isSome = true := by decide
theorem test_witness_TimeoutWithdrawsTheAccess :
    State.reset.settle.arb.mp = none ∧ draining.settle.arb.mp.isSome = true ∧
      ({ State.reset with arb := { issued .wp request0 with mp := some { who := .wp, req := request0, left := 0 } } } :
        State).pending = [] ∧
      (after .memTimeoutExpiry waiting).arb.granted = some { who := .wp, req := request0 } ∧
      (after .memTimeoutExpiry waiting).memTimeout ≠ 0 ∧
      (after .memTimeoutExpiry waiting).time.clk + 1 < (after .memTimeoutExpiry waiting).time.tickLen.toNat := by decide

theorem test_witness_RequestIsIgnoredCreatesOrMerges :
    ¬configured.journals .d0 ∧ ¬restarting.journals .d0 ∧ written.journals .d0 ∧ written.dom0.sched = .idle ∧
      draining.journals .d0 ∧ draining.dom0.sched = .idle ∧ settling.journals .d0 ∧
      settling.dom0.sched = .settle linked (some 3) (some 3) ∧ flushing.journals .d0 := by decide
theorem test_witness_RequestIsIgnoredCreatesOrMerges_together :
    active.advance {} = none ∧ active.journals .d0 ∧ active.dom0.sched = .idle ∧
      (active.request .d0 .timer).tryCommit .d0 ≠ none := by decide
theorem test_witness_TimerExpiryReloadsAndRequests :
    ((with0 active fun x => { x with timer := some 1000 }).settleForRequest .d0 .timer).dom0.timer = some 1000 ∧
      (active.settleForRequest .d0 .timer).dom0.timer = none := by decide
theorem test_witness_RisingEdgeRequestsALineBoundary :
    lined.settleForRequest .d0 .line = lined ∧ lined.dom0.epochIn = false ∧ lined.device = .running ∧
      lined.dom0.state = .active ∧ lined.dom0.params.lineEn = true ∧ active.settleForRequest .d0 .line = active ∧
      active.dom0.params.lineEn = false ∧
      ((with0 active fun x => { x with epochIn := true }).settleForRequest .d0 .line).dom0.epochIn = true := by decide
theorem test_witness_SampleLevelAndHoldExpiriesAreTaken :
    (with0 settling fun x => { x with sampleN := false }).settle.dom0.sched = .settle linked (some 3) (some 3) := by
  decide
theorem test_witness_HoldLimitAnswersErr : (holding flushed .flush).settle.held = some (heldFor .flush) := by decide
theorem test_witness_ResetWritesTheResetRecord :
    draining.settle.resetN = true ∧ draining.settle.queue = [element0] ∧ active.settle.queue = [] ∧
      ({ queued with engine := .writing } : State).settle.queue = [{ element0 with phase := .queued }] := by decide
theorem test_witness_ReleaseAndPowerUpGiveTheResetState : low.resetN = false := by decide
theorem test_witness_InputsThatAreNotTakenDoNothing :
    low.resetN = false ∧ ignoredInReset (.nop 0 0 0) = true ∧ (Instr.nop 0 0 0).wellFormed = true ∧
      (reading .cp true).wp.busy = true ∧ (reading .cp true).cp.busy = true ∧ frameRow (.nop 0 0 0) = true := by decide

theorem test_witness_FailedCheckIsAnsweredCheckFail :
    frameByte 0x0000000000000108 7 ≠ crc8 ((0x0000000000000108 : Frame).extractLsb' 8 56) ∧
      active.settle.resetN = true := by decide +kernel
theorem test_witness_RefusedCommandsChangeOnlyTheLink :
    (∀ c ∈ Command.all, c.code ≠ 0x17) ∧ restarting.settle.device = .restarting ∧ restarting.settle.resetN = true ∧
      active.settle.device = .running ∧ active.settle.resetN = true := by decide
theorem test_witness_ReadArgumentsNameWhatIsRead :
    Param.ofNum? 0x03 = none ∧ 2 < argLow 3 ∧ argLow 0xB0 < 2 ∧ 10 < argHigh 0xB0 ∧ argLow 0x32 = 2 ∧ 2 < argHigh 0x32 ∧
      3 < argHigh 0x4F ∧ argHigh 0x3F = 3 ∧ argLow 0x3F = 15 ∧
      (after (.commitPoint .d0) settling).history[argLow 0x30]?.isSome = true ∧ State.reset.history[argLow 0x3F]? = none := by
  decide
theorem test_witness_frames_are_taken :
    active.settle.resetN = true ∧ active.settle.link.selN = true ∧ active.settle.device = .running ∧
      ([] : List Bool).length ≠ 64 ∧ (List.replicate 65 true).length ≠ 64 ∧
      (0 : Byte).toNat ≤ 3 ∧ (3 : Byte).toNat ≤ 3 := by decide
theorem test_witness_TimerRunAndEventEnableTakeEffect :
    1 < (2 : Word).toNat ∧ (0x3FFFF : Word).toNat < 2 ^ 18 ∧ 2 ^ 18 ≤ (0x40000 : Word).toNat ∧
      (Param.setting .d1 .timerRun).num = 0x24 := by decide
theorem test_witness_WriteParamIsJudgedInOrder :
    (Param.setting .d0 .quota).inRange 15 = false ∧ (Param.setting .d0 .quota).inRange 16 = true ∧
      (Param.setting .d0 .quota).inRange 512 = true ∧ (Param.setting .d0 .quota).inRange 513 = false ∧
      active.settle.locks (.setting .d0 .quota) 16 = true ∧ configured.settle.locks (.setting .d0 .quota) 16 = false ∧
      active.settle.device = .running := by decide
theorem test_witness_ReadEventReturnsTheRecord : (17 : Byte).toNat = (17 : Fin 18).val ∧ 18 ≤ (18 : Byte).toNat := by decide
theorem test_witness_AckEventComparesTheCount :
    ((15 : Word).extractLsb' 0 8).toNat ≤ 15 ∧ ((15 : Word).extractLsb' 0 8).toNat ≠ active.settle.events[17].count.toNat ∧
      ((0x100 : Word).extractLsb' 0 8).toNat = active.settle.events[17].count.toNat ∧
      15 < ((16 : Word).extractLsb' 0 8).toNat := by decide
theorem test_witness_StartJudgesTheTables :
    active.settle.dom0.state ≠ .off ∧ configured.settle.dom1.state = .off ∧
      configured.settle.tableFault .d1 = some (.noWindow, 0) ∧ configured.settle.dom0.state = .off ∧
      configured.settle.tableFault .d0 = none ∧ configured.settle.device = .running := by decide
theorem test_witness_StartJudgesTheTables_kinds :
    ({ configured with windows := configured.windows.set 0 { window0 with base := 2 } } : State).tableFault .d0 =
      some (.misaligned, 0) ∧
    ({ configured with windows := configured.windows.set 7 window0 } : State).tableFault .d0 = some (.windowOverlap, 0) ∧
    ({ configured with groups := configured.groups.set 15 { group0 with offset := 3 } } : State).tableFault .d0 =
      some (.groupOutside, 15) ∧
    ({ configured with groups := (configured.groups.set 3 group0).set 15 group0 } : State).tableFault .d0 =
      some (.groupOverlap, 3) := by decide
theorem test_witness_commands_on_a_domain :
    active.settle.dom0.state = .active ∧ active.settle.dom1.state ≠ .active ∧
      (with0 flushing fun x => { x with sampleN := false }).settle.dom0.state = .flushing false ∧
      (with0 flushing fun x => { x with sampleN := false }).settle.dom0.sched ≠ .idle ∧
      flushed.settle.dom0.state = .flushing true ∧ flushed.settle.dom0.sched = .idle := by decide

/-! ### Witnesses of the orders that every step keeps -/

theorem test_witness_StatesStayInOrder : draining.StatesInOrder where
  slots :=
    { conserved := by decide
      oneElement := onBoth (by decide) (by decide)
      settled := onBoth (by decide) (by decide)
      counted := by decide
      drained := onBoth (by decide) (by decide) }
  offEmpty := onBoth (by decide) (by decide)
  offIdle := onBoth (by decide) (by decide)
  finalEmpty := onBoth (by decide) (by decide)
  restartingEmpty := by intro h; exact absurd h (by decide)
  heldSpace := by intro h hh; cases hh
  quota := onBoth (by decide) (by decide)
  lowEmpty := by intro h; exact absurd h (by decide)

/-- The commands of a run from reset to a write held for FLUSH while its domain drains: window 0, WRITE_HOLD_0 of one tick, START, a
write, STOP, the late write, the grant of the drain write. -/
def heldRun : List Instr :=
  [.writeParam 0x41 0x21 1, .writeParam 0x12 1 2, .start 0 0 3, .writerPortWrite 1 0xF 0x11223344, .stop 0 0 4,
    .writerPortWrite 3 0xF 7, .memoryGrant]

/-- The state after that run, and the idle steps up to the last CLK period of the first tick. -/
def lastTick : State :=
  let s := heldRun.foldl (fun s c => after c s) State.reset
  { s with time := { tick := 0, clk := 99, tickLen := 100 }, wp := s.wp.endPeriod }

theorem test_witness_HeldWriteExpiresAtItsTickEnd : lastTick.StatesInOrder where
  slots :=
    { conserved := by decide
      oneElement := onBoth (by decide) (by decide)
      settled := onBoth (by decide) (by decide)
      counted := by decide
      drained := onBoth (by decide) (by decide) }
  offEmpty := onBoth (by decide) (by decide)
  offIdle := onBoth (by decide) (by decide)
  finalEmpty := onBoth (by decide) (by decide)
  restartingEmpty := by intro h; exact absurd h (by decide)
  heldSpace := by intro h hh hs; cases hh; exact absurd hs (by decide)
  quota := onBoth (by decide) (by decide)
  lowEmpty := by intro h; exact absurd h (by decide)

theorem test_witness_HeldWriteExpiresAtItsTickEnd_moment :
    lastTick.pending = [] ∧ lastTick.resetN = true ∧ lastTick.memTimeout ≠ 0 ∧ lastTick.advance {} = none ∧
      lastTick.arb.mp = some { who := .drain, req := entry1.drainWrite, left := 16 } ∧
      lastTick.time.tickLen.toNat ≤ lastTick.time.clk + 1 ∧ lastTick.held = some (heldFor .flush) := by decide

/-- What is said of every requester's request where the drain write is on MP and nothing else is. -/
theorem asked_draining {s : State} (ha : s.arb = issued .drain entry1.drainWrite) {r : Requester} {m : Request}
    (h : s.arb.asked r m) : r = .drain ∧ m = entry1.drainWrite := by
  rw [ha] at h
  cases r <;> simp [Arbiter.asked, issued, Arbiter.request, Arbiter.onPort, Arbiter.reset] at h ⊢
  exact h.symm

theorem test_witness_HeldWriteExpiresAtItsTickEnd_quiet : lastTick.NothingDue {} where
  place := by intro w h hs; cases h; cases hs
  drainEnd := by intro e rest h _; cases h; decide
  commit := by intro d b g l h _; cases d <;> cases h
  release := by intro w h _; cases h; decide
  begin := by intro e rest _ h; exact absurd h (by decide)
  restart := by intro h; exact absurd h (by decide)
  grant := by intro _ h; exact absurd h (by decide)

theorem test_witness_IdleStepPassesOneClkPeriod_quiet : (lastPeriod active).NothingDue {} where
  place := by intro w h; cases h
  drainEnd := by intro e rest h; cases h
  commit := by intro d b g l h; cases d <;> cases h
  release := by intro w h; cases h
  begin := by intro e rest h; cases h
  restart := by intro h; cases h
  grant := by intro _ _ _ w; cases w <;> rfl

theorem test_witness_BanksAndPortsStayInOrder : (holding draining .flush).BanksInOrder where
  ports := ⟨by decide, by decide, by decide, by decide, by intro h; cases h⟩
  engine :=
    { writing := ⟨fun _ => ⟨element0, [], rfl, rfl⟩, fun _ => rfl⟩
      behind := by intro e rest h x hx; cases h; cases hx
      clear := by decide
      oneWrite := by intro e rest h _; cases h; decide
      noWrite := by intro h; cases h
      itsWrite := by
        intro m e rest h hq
        cases hq
        exact ⟨entry1, [], rfl, (asked_draining rfl h).2⟩ }
  reads :=
    { writer := ⟨(by intro x h; cases h), fun _ m h => by rw [(asked_draining rfl h).2]; rfl⟩
      consumer := ⟨(by intro x h; cases h), fun _ m h => by rw [(asked_draining rfl h).2]; rfl⟩
      fences := by
        intro e he
        have : e = element0 := by simpa [holding, draining] using he
        subst this
        exact ⟨fun h => (by cases h), fun ⟨_, hk, _⟩ => (by cases hk)⟩
      writerUnfenced := by intro k h; cases h }
  openUnique := onBoth (by decide) (by decide)
  drainUnique := onBoth (by decide) (by decide)
  openMasks := onBoth (by decide) (by decide)
  drainMasks := onBoth (by decide) (by decide)
  heldNew := by intro h hh hs; cases hh; exact absurd hs (by decide)
  heldEnables := by intro h hh; cases hh; decide

theorem test_witness_HistoryStaysInOrder : draining.RingInOrder where
  bounded := by decide
  serials := by
    intro i r h
    cases i with
    | zero => cases h; decide
    | succ i => cases h
  records := by
    intro r h
    have : r = record1 := by simpa [draining] using h
    subst this
    exact ⟨by decide, by decide, by decide, by decide, by decide, by decide⟩
  epochs := by
    intro d i r h
    cases d
    · cases i with
      | zero => cases h; decide
      | succ i => cases h
    · cases h
  pendingNewest := by
    intro d i r h _
    cases d
    · cases i with
      | zero => rfl
      | succ i => cases h
    · cases h
  pendingQueued := by
    intro r h _
    have : r = record1 := by simpa [draining] using h
    subst this
    exact ⟨element0, by decide, by decide⟩
  boundaries := by
    intro d b h
    cases d <;> cases h

theorem test_witness_WaitCountsStayBounded : ({ active with arb := contended 8 } : State).WaitsInOrder := by
  constructor <;> decide

theorem test_witness_ParametersStayInRange : active.ParamsInOrder := by
  intro p hp
  cases p with
  | partId => cases hp
  | revision => cases hp
  | poolSize => cases hp
  | tickDiv => decide
  | memTimeout => decide
  | eventEnable => decide
  | setting d q => cases d <;> cases q <;> decide
  | winBase w => revert w; decide
  | winCtrl w => revert w; decide
  | grp g => revert g; decide

end Sys2Proof.Tests
end

section
/-! SUPPORT. The writer's window writes at the port, and what coalescing does to the journal (R8, R9). -/

namespace Sys2Proof.Machine

variable {s : State}

/-! ### The way of a writer-port write to the journal -/

/-- An accepted writer-port write in a window is judged in the state in which it finds the part (R115, R117, R170). -/
theorem exec_writerPortWrite_of_classify {q : State} {d : Dom} {a : Addr} {be : Lanes} (data : Word)
    (hq : s.settleForWrite a be = q) (hr : s.resetN = true) (hw : s.wp.busy = false) (hc : q.classify a = some d) :
    exec (.writerPortWrite a be data) s = .next (q.acceptWp.windowWrite d a be data) := by
  subst hq
  have hacc : s.wpAccepts = true := by simp [State.wpAccepts, hr, hw]
  simp [exec, execWriterPortWrite, hacc, hc]

/-- A window write with a byte enable set is handed to the journal of a domain that takes journaled writes (R8). -/
theorem windowWrite_of_journals {d : Dom} (a : Addr) {be : Lanes} (data : Word) (hbe : be ≠ 0) (hj : s.journals d) :
    s.windowWrite d a be data = s.journalWrite d a be data := by
  obtain ⟨hdev, hst⟩ := hj
  have hlate : (s.dom d).state ≠ .flushing true := by
    rcases hst with h | h <;> simp [h]
  have hrun : s.device ≠ .restarting := by simp [hdev]
  rw [State.windowWrite, if_neg hbe, if_neg hrun, if_neg hlate]

/-- A bank answers a look-up exactly when one of its entries has the address (R4). -/
theorem lookup_isSome_iff {b : Bank} {a : Addr} : (b.lookup a).isSome = true ↔ ∃ e ∈ b, e.addr = a := by
  simp [Bank.lookup]

/-- A write to a word that has an entry coalesces, whatever room there is (R9, Table 1.2). -/
theorem journalWrite_of_entry {d : Dom} {a : Addr} (be : Lanes) (data : Word)
    (he : ∃ e ∈ (s.dom d).openBank, e.addr = a) :
    s.journalWrite d a be data = (s.coalesceEntry d a be data).answerWp false 0 :=
  if_pos (lookup_isSome_iff.2 he)

/-! ### What coalescing writes and what it leaves (R9) -/

/-- The entry of the word takes the enabled lanes, in its place. -/
theorem coalesceEntry_openBank (d : Dom) (a : Addr) (be : Lanes) (data : Word) :
    ((s.coalesceEntry d a be data).dom d).openBank = (s.dom d).openBank.coalesce a be data := by
  simp [State.coalesceEntry, bump_dom]

/-- The domain of the write keeps all but its open bank and its counters. -/
theorem coalesceEntry_domain (d : Dom) (a : Addr) (be : Lanes) (data : Word) :
    { (s.coalesceEntry d a be data).dom d with
      openBank := (s.dom d).openBank, counters := (s.dom d).counters } = s.dom d := by
  simp [State.coalesceEntry, bump_dom]

/-- The other domain keeps what it has. -/
theorem coalesceEntry_dom_other (d : Dom) (a : Addr) (be : Lanes) (data : Word) :
    (s.coalesceEntry d a be data).dom (otherDom d) = s.dom (otherDom d) := by
  cases d <;> simp [State.coalesceEntry, State.updDom, State.setDom, State.bump, otherDom]

/-- COALESCED is counted once. -/
theorem coalesceEntry_counted (d : Dom) (a : Addr) (be : Lanes) (data : Word) :
    s.counted (s.coalesceEntry d a be data) d fun c => if c = .coalesced then 1 else 0 :=
  counted_congr
    (bump_counted (s := s.updDom d fun x => { x with openBank := x.openBank.coalesce a be data }) d .coalesced 1)
    (by simp) (by simp [State.coalesceEntry])

/-- The group tracker is told of the write. -/
theorem coalesceEntry_tracked (d : Dom) (a : Addr) (be : Lanes) (data : Word) :
    s.tracked (s.coalesceEntry d a be data) d a :=
  tracked_congr
    (noteWrite_tracked
      (s := (s.updDom d fun x => { x with openBank := x.openBank.coalesce a be data }).bump d .coalesced 1) d a)
    (by simp) (by simp) (by simp) rfl

/-- The domains and the group states are all that changes. -/
theorem coalesceEntry_frame (d : Dom) (a : Addr) (be : Lanes) (data : Word) :
    { s.coalesceEntry d a be data with dom0 := s.dom0, dom1 := s.dom1, groupStates := s.groupStates } = s := by
  unfold State.coalesceEntry State.noteWrite
  cases d <;> dsimp only [State.updDom, State.setDom, State.bump] <;> split <;> rfl

/-- Settles O12: the write is handed to the journal, finds its entry there and coalesces; the acceptance before it and the
answer after it concern the port alone. -/
theorem writeCoalescesIntoItsEntry : Obligations.WriteCoalescesIntoItsEntry := by
  unfold Obligations.WriteCoalescesIntoItsEntry
  intro s q d a be data hq hr hw hc hbe hj he
  have hexec : exec (.writerPortWrite a be data) s = .next ((q.acceptWp.coalesceEntry d a be data).answerWp false 0) := by
    rw [exec_writerPortWrite_of_classify data hq hr hw hc,
      windowWrite_of_journals a data hbe (by rwa [State.journals, acceptWp_device, acceptWp_dom]),
      journalWrite_of_entry be data (by rwa [acceptWp_dom])]
  refine ⟨_, hexec, ?bank, ?counters, ?groups, rfl, ?domain, ?others, ?frame⟩
  case bank => rw [answerWp_dom, coalesceEntry_openBank, acceptWp_dom]; rfl
  case counters =>
    exact counted_congr (coalesceEntry_counted (s := q.acceptWp) d a be data) (by simp) (by simp)
  case groups => exact tracked_congr (coalesceEntry_tracked (s := q.acceptWp) d a be data) rfl rfl rfl rfl
  case domain => simpa using coalesceEntry_domain (s := q.acceptWp) d a be data
  case others => rw [answerWp_dom, coalesceEntry_dom_other, acceptWp_dom]
  case frame =>
    exact congrArg (fun t : State => { t with wp := q.wp }) (coalesceEntry_frame (s := q.acceptWp) d a be data)

end Sys2Proof.Machine
end

section
/-! SUPPORT. CLOSE: the domain its argument names, the request it raises there, and the epoch timers it leaves (R31). -/

namespace Sys2Proof.Machine

variable {s q : State}

/-! ### The domain a frame names -/

/-- The argument bytes 0 and 1 name the domains (Table 10.3). -/
theorem argDom_number (d : Dom) : argDom (if d = .d0 then 0 else 1) = some d := by
  cases d <;> rfl

/-- A frame that requests a boundary of a domain it names finds the part as that request does (R36, R51). -/
theorem settleForFrame_of_argDom {arg : Byte} {d : Dom} (c : Cause) (ha : argDom arg = some d) :
    s.settleForFrame arg c = s.settleForRequest d c := by
  simp [State.settleForFrame, ha]

/-- A command on a domain has the effect of its body on the domain it names. -/
theorem onDomain_of_argDom {arg : Byte} {d : Dom} (body : Dom → State → State × Reply) (ha : argDom arg = some d) :
    onDomain arg body = body d := by
  funext s
  simp [onDomain, ha]

/-- A CLOSE that names a domain is judged in the state in which its LINK request finds the part. -/
theorem exec_close_of_argDom {arg : Byte} {d : Dom} (data : Word) (tag : Byte) (ha : argDom arg = some d)
    (hq : s.settleForRequest d .link = q) :
    exec (.close arg data tag) s = .next (q.linkCommand .close arg data tag (closeDomain d)) := by
  rw [← hq, ← settleForFrame_of_argDom .link ha, ← onDomain_of_argDom closeDomain ha]
  rfl

/-! ### What CLOSE makes of the state, the link apart -/

/-- CLOSE of an ACTIVE domain raises one LINK request (R31). -/
theorem closeDomain_shiftFrame_of_active {d : Dom} (h : (q.dom d).state = .active) (f : Frame) :
    closeDomain d (q.shiftFrame f) = ((q.request d .link).shiftFrame f, .bare .ok) := by
  rw [closeDomain, shiftFrame_dom, if_pos h, request_shiftFrame]

/-- CLOSE of a domain that is not ACTIVE requests nothing (R31). -/
theorem closeDomain_shiftFrame_of_not_active {d : Dom} (h : (q.dom d).state ≠ .active) (f : Frame) :
    closeDomain d (q.shiftFrame f) = (q.shiftFrame f, .bare .state) := by
  rw [closeDomain, shiftFrame_dom, if_neg h]

/-! ### The epoch timers -/

theorem updDom_dom_timer (d e : Dom) {f : Domain → Domain} (h : ∀ x, (f x).timer = x.timer) :
    ((s.updDom d f).dom e).timer = (s.dom e).timer := by
  by_cases hd : e = d
  · rw [hd, updDom_dom_same, h]
  · rw [updDom_dom_other s hd]

theorem noteMerge_dom_timer (d e : Dom) : ((s.noteMerge d).dom e).timer = (s.dom e).timer := by
  rw [State.noteMerge, raise_dom]
  exact updDom_dom_timer d e fun _ => rfl

/-- A boundary request of any cause writes the scheduler, and the count of merges: the epoch timers run on (R29, R31). -/
theorem request_dom_timer (d e : Dom) (c : Cause) : ((s.request d c).dom e).timer = (s.dom e).timer := by
  unfold State.request
  split
  case isTrue => rfl
  case isFalse =>
    split
    case h_1 => split <;> exact updDom_dom_timer d e fun _ => rfl
    case h_2 => exact (noteMerge_dom_timer d e).trans (updDom_dom_timer d e fun _ => rfl)
    case h_3 => exact (noteMerge_dom_timer d e).trans (updDom_dom_timer d e fun _ => rfl)

/-- Settles O52: the frame passes the tests of R154 on a RUNNING device, and the state of the domain it names decides between the
LINK request and the answer STATE. -/
theorem closeRequestsALinkBoundary : Obligations.CloseRequestsALinkBoundary := by
  unfold Obligations.CloseRequestsALinkBoundary
  intro s q d arg tag data hq hl hr harg
  have hexec := exec_close_of_argDom data tag (harg ▸ argDom_number d) hq
  refine ⟨fun hactive => ?active, fun e => request_dom_timer d e .link, fun hother => ?other⟩
  case active =>
    rw [hexec, linkCommand_taken hl (.inl hr) (closeDomain_shiftFrame_of_active hactive)]
    rfl
  case other =>
    rw [hexec, linkCommand_taken hl (.inl hr) (closeDomain_shiftFrame_of_not_active hother)]
    rfl

end Sys2Proof.Machine
end

section
/-! SUPPORT. Resolved reads at the upstream ports: the record the banks fill, and the two outcomes of R84. -/

namespace Sys2Proof.Machine

variable {s q : State} {r : ReadRecord}

/-! ### The way of an accepted read to its lookup (R79) -/

/-- An accepted writer read in a window starts from the record that both banks of its domain fill (R82). -/
theorem exec_writerPortRead_of_classify {d : Dom} {a : Addr} (lines : ReadLines) (hq : s.settleForAccess = q)
    (hr : s.resetN = true) (hw : s.wp.busy = false) (hc : q.classify a = some d) :
    exec (.writerPortRead a lines) s = .next (q.acceptWp.startWpRead (q.wpLookup d a) (memoryRead a)) := by
  subst hq
  have hacc : s.wpAccepts = true := by simp [State.wpAccepts, hr, hw]
  simp [exec, execWriterPortRead, hacc, hc]

/-- An accepted consumer read in a window starts from the record that the draining bank of its domain fills (R83). -/
theorem exec_consumerPortRead_of_classify {d : Dom} {a : Addr} (lines : ReadLines) (hq : s.settleForAccess = q)
    (hr : s.resetN = true) (hcp : s.cp.busy = false) (hc : q.classify a = some d) :
    exec (.consumerPortRead a lines) s = .next (q.acceptCp.startCpRead (q.cpLookup d a) (memoryRead a)) := by
  subst hq
  have hacc : s.cpAccepts = true := by simp [State.cpAccepts, hr, hcp]
  simp [exec, execConsumerPortRead, hacc, hc]

/-! ### The two outcomes of a started read (R84) -/

/-- With all lanes covered the writer is answered OK at once, and its port is all that changes. -/
theorem startWpRead_of_covered (m : Request) (h : r.covered = 0xF) :
    q.acceptWp.startWpRead r m = { q with wp := .answered false r.bytes } :=
  if_pos h

/-- With a lane missing the writer's access stays outstanding, its record is kept, and its request is presented. -/
theorem startWpRead_of_not_covered (m : Request) (h : r.covered ≠ 0xF) :
    q.acceptWp.startWpRead r m =
      { q with wp := .accepted, wpRead := some r, arb := { q.arb with wpReq := some m } } :=
  if_neg h

/-- With all lanes covered the consumer is answered OK at once, and its port is all that changes. -/
theorem startCpRead_of_covered (m : Request) (h : r.covered = 0xF) :
    q.acceptCp.startCpRead r m = { q with cp := .answered false r.bytes } :=
  if_pos h

/-- With a lane missing the consumer's access stays outstanding, its record is kept, and its request is presented. -/
theorem startCpRead_of_not_covered (m : Request) (h : r.covered ≠ 0xF) :
    q.acceptCp.startCpRead r m =
      { q with cp := .accepted, cpRead := some r, arb := { q.arb with cpReq := some m } } :=
  if_neg h

/-! ### The reads -/

/-- Settles O19: the read starts from the record that both banks fill (`State.wpLookup`), and whether that record covers all four
lanes decides between the answer and the memory read. -/
theorem writerReadLooksInBothBanks : Obligations.WriterReadLooksInBothBanks := by
  unfold Obligations.WriterReadLooksInBothBanks
  intro s q d a be data o l hq hr hw hc ho hl
  subst ho hl
  have hexec := exec_writerPortRead_of_classify ⟨be, data⟩ hq hr hw hc
  refine ⟨fun hall => ?answered, fun hmissing => ⟨(memoryRead a).data, ?asked⟩⟩
  case answered =>
    rw [hexec, startWpRead_of_covered (memoryRead a) hall]
    rfl
  case asked =>
    rw [hexec, startWpRead_of_not_covered (memoryRead a) hmissing]
    rfl

/-- Settles O20: the read starts from the record that the draining bank alone fills (`State.cpLookup`), and whether that record
covers all four lanes decides between the answer and the memory read. -/
theorem consumerReadLooksInTheDrainingBank : Obligations.ConsumerReadLooksInTheDrainingBank := by
  unfold Obligations.ConsumerReadLooksInTheDrainingBank
  intro s q d a be data l hq hr hcp hc hl
  subst hl
  have hexec := exec_consumerPortRead_of_classify ⟨be, data⟩ hq hr hcp hc
  refine ⟨fun hall => ?answered, fun hmissing => ⟨(memoryRead a).data, ?asked⟩⟩
  case answered =>
    rw [hexec, startCpRead_of_covered (memoryRead a) hall]
    rfl
  case asked =>
    rw [hexec, startCpRead_of_not_covered (memoryRead a) hmissing]
    rfl

end Sys2Proof.Machine
end

section
/-! SUPPORT. Commands that only read, and the record that READ_EVENT returns (R144, Table 10.9). -/

namespace Sys2Proof.Machine

variable {s q : State}

/-! ### Reading commands (section 10.4) -/

/-- A reading command is executed in both device states (R154). When its reply does not depend on the link, that reply answers it,
and nothing but the link changes. -/
theorem linkCommand_reading {c : Command} {arg : Byte} {data : Word} {tag : Byte} {reply : State → Reply}
    (hl : q.listens) (hc : c.always = true) (hf : ∀ f, reply (q.shiftFrame f) = reply q) :
    q.linkCommand c arg data tag (reading reply) = q.answering c.code arg data tag (reply q) :=
  linkCommand_taken hl (.inr hc) fun f => congrArg (Prod.mk (q.shiftFrame f)) (hf f)

/-! ### The event an argument byte names -/

/-- The bytes 0 to 17 name the events (Table 10.3). -/
theorem argEvent_of_eq {arg : Byte} {i : Fin 18} (h : arg.toNat = i.val) : argEvent arg = some i := by
  simp [argEvent, h]

/-- The other bytes name none. -/
theorem argEvent_of_le {arg : Byte} (h : 18 ≤ arg.toNat) : argEvent arg = none :=
  dif_neg h.not_gt

/-! ### The record of an event (Table 10.9) -/

/-- The fields of the record stand side by side: the count in bits 3..0, pending worth 16, the enable worth 32. -/
theorem eventFields_eq_add (enable pending : Bool) (count : BitVec 4) :
    0#26 ++ BitVec.ofBool enable ++ BitVec.ofBool pending ++ count =
      count.setWidth 32 + (if pending then 16 else 0) + (if enable then 32 else 0) := by
  revert enable pending count
  decide

/-- The record does not depend on the link. -/
theorem eventReply_shiftFrame (arg : Byte) (f : Frame) : (q.shiftFrame f).eventReply arg = q.eventReply arg := by
  simp only [State.eventReply, State.eventWord, shiftFrame_events, shiftFrame_eventEnable]

/-- The reply for a byte that names an event is the sum of its fields. -/
theorem eventReply_of_argEvent {arg : Byte} {i : Fin 18} (h : argEvent arg = some i) :
    q.eventReply arg = .okData (q.events[i].count.setWidth 32 +
      (if q.events[i].pending then 16 else 0) + (if q.eventEnable.getLsbD i then 32 else 0)) := by
  simp only [State.eventReply, h, State.eventWord, eventFields_eq_add]

/-- A byte that names no event is answered BAD_ARGUMENT. -/
theorem eventReply_of_argEvent_none {arg : Byte} (h : argEvent arg = none) :
    q.eventReply arg = .bare .badArgument := by
  simp only [State.eventReply, h]

/-- READ_EVENT is answered its reply in both device states, and changes the link alone (R144, R154). -/
theorem exec_readEvent (arg : Byte) (data : Word) (tag : Byte) (hq : s.settle = q) (hl : q.listens) :
    exec (.readEvent arg data tag) s = .next (q.answering 0x13 arg data tag (q.eventReply arg)) := by
  subst hq
  exact congrArg Host.Outcome.next (linkCommand_reading hl rfl (eventReply_shiftFrame arg))

/-- Settles O47: READ_EVENT is answered in every device state from the state it finds, and its argument decides between the record
and BAD_ARGUMENT. -/
theorem readEventReturnsTheRecord : Obligations.ReadEventReturnsTheRecord := by
  unfold Obligations.ReadEventReturnsTheRecord
  intro s q arg tag data hq hl
  rw [exec_readEvent arg data tag hq hl]
  refine ⟨fun i hi => ?record, fun hother => ?badArgument⟩
  case record =>
    rw [eventReply_of_argEvent (argEvent_of_eq hi)]
    rfl
  case badArgument =>
    rw [eventReply_of_argEvent_none (argEvent_of_le hother)]
    rfl

end Sys2Proof.Machine
end

section
/-! SUPPORT. A torn frame: the way to its discarding, what it counts and raises, and what it leaves of the link (R151). -/

namespace Sys2Proof.Machine

variable {s q : State}

/-- The device counters are those the state holds. -/
theorem devCounter_congr {t : State} (h : t.devCounters = s.devCounters) (c : DevCounter) :
    t.devCounter c = s.devCounter c := by
  unfold State.devCounter; rw [h]

/-- What leaves the device counters is counted as nothing. -/
theorem devCounted_congr {a b t : State} {n : DevCounter → Nat} (h : a.devCounted b n)
    (ha : a.devCounters = s.devCounters) (hb : t.devCounters = b.devCounters) : s.devCounted t n := by
  intro c
  rw [devCounter_congr hb, h c, devCounter_congr ha]

/-- Bits that do not make 64 are judged a torn frame, in the state in which the frame finds the part, whatever the device's
state (R150, R151). -/
theorem exec_tornFrame_of_length_ne {bits : List Bool} (hq : s.settle = q) (hl : q.listens) (hn : bits.length ≠ 64) :
    exec (.tornFrame bits) s = .next (q.tearFrame bits) := by
  subst hq
  have htorn : exec (.tornFrame bits) s = .next (s.settle.takeFrame fun u => u.tearFrame bits) := if_neg hn
  rw [htorn, takeFrame_listens hl]

/-- A torn frame is counted in TORN_FRAMES. -/
theorem tearFrame_devCounted (bits : List Bool) :
    s.devCounted (s.tearFrame bits) fun c => if c = .tornFrames then 1 else 0 :=
  devCounted_congr
    (bumpDev_counted (s := { s with link := { s.link.receive bits with kept := [] } }) .tornFrames)
    rfl (raise_devCounters _ _)

/-- A torn frame raises LINK_ERROR. -/
theorem tearFrame_occurred (bits : List Bool) :
    s.occurred (s.tearFrame bits) fun e => decide (e = .linkError) :=
  occurred_congr
    (raise_occurred (s := State.bumpDev { s with link := { s.link.receive bits with kept := [] } } .tornFrames) .linkError)
    (bumpDev_events _ _) rfl

/-- The link after a torn frame: of the frame it has the number of bits, of the response in waiting the bits presented, and the
response itself stays. -/
theorem tearFrame_link (bits : List Bool) : (s.tearFrame bits).link = { s.link with
    state := .deselected
    selN := true
    bitCount := bits.length
    kept := []
    presented := (List.range bits.length).map fun i => s.response.frame.getMsbD i
    slDo := none } := by
  rw [State.tearFrame, raise_link, bumpDev_link, receive_eq]
  rfl

/-- The device counters, the events and the link are all that changes. -/
theorem tearFrame_frame (bits : List Bool) :
    { s.tearFrame bits with devCounters := s.devCounters, events := s.events, link := s.link } = s := rfl

/-- Settles O36: the frame is taken by a link that listens, SL_SEL_N being high before it as after it, and what discarding it
counts, raises and leaves is said by the lemmas on `State.tearFrame`. -/
theorem tornFrameIsDiscarded : Obligations.TornFrameIsDiscarded := by
  unfold Obligations.TornFrameIsDiscarded
  intro s q bits hq hl hn
  have hsel : q.link.selN = true := hl.2
  refine ⟨q.tearFrame bits, exec_tornFrame_of_length_ne hq hl hn, tearFrame_devCounted bits, tearFrame_occurred bits,
    .inl ?kept, ?link, tearFrame_frame bits⟩
  case kept => rw [tearFrame_link]
  case link => simp only [tearFrame_link, hsel]

end Sys2Proof.Machine
end

section
/-! SUPPORT. Parameters on the setup link: what READ_PARAM answers (R155), and a write that is out of range (R156, R164). -/

namespace Sys2Proof.Machine

variable {s q : State} {n : Byte} {p : Param} {v : Word}

/-! ### The parameters and the link -/

/-- A frame on the link leaves the value of every parameter. -/
theorem param_shiftFrame (f : Frame) (p : Param) : (q.shiftFrame f).param p = q.param p := by
  cases p <;> simp [State.param]

/-! ### READ_PARAM -/

/-- The reply for a number that names a parameter is OK with the value held. -/
theorem paramReply_of_ofNum (hp : Param.ofNum? n = some p) : q.paramReply n = .okData (q.param p) := by
  simp only [State.paramReply, hp]

/-- The reply does not depend on the link. -/
theorem paramReply_shiftFrame (n : Byte) (f : Frame) : (q.shiftFrame f).paramReply n = q.paramReply n := by
  simp only [State.paramReply, param_shiftFrame]

/-- READ_PARAM is answered its reply in both device states, and changes the link alone (R154, R155). -/
theorem exec_readParam (n : Byte) (data : Word) (tag : Byte) (hq : s.settle = q) (hl : q.listens) :
    exec (.readParam n data tag) s = .next (q.answering 0x11 n data tag (q.paramReply n)) := by
  subst hq
  exact congrArg Host.Outcome.next (linkCommand_reading hl rfl (paramReply_shiftFrame n))

/-- READ_PARAM of a number that names a parameter is answered OK with the value held (R155). -/
theorem exec_readParam_of_ofNum (data : Word) (tag : Byte) (hq : s.settle = q) (hl : q.listens) (hp : Param.ofNum? n = some p) :
    exec (.readParam n data tag) s = .next (q.answering 0x11 n data tag (.okData (q.param p))) := by
  rw [exec_readParam n data tag hq hl, paramReply_of_ofNum hp]

/-! ### A WRITE_PARAM out of range -/

/-- A value out of range is BAD_ARGUMENT, whatever domain is in use (R156, R165). -/
theorem writeResult_of_not_inRange (hv : p.inRange v = false) : q.writeResult p v = .badArgument := by
  simp [State.writeResult, hv]

/-- A value out of range is not stored. -/
theorem writeParam_of_not_inRange (hv : p.inRange v = false) : q.writeParam p v = q := by
  simp only [State.writeParam, writeResult_of_not_inRange hv]

/-- WRITE_PARAM of a value out of range has no effect, and replies BAD_ARGUMENT with the value the parameter keeps. -/
theorem writeParamBody_of_not_inRange (hp : Param.ofNum? n = some p) (hv : p.inRange v = false) :
    writeParamBody n v q = (q, { result := .badArgument, data := q.param p }) := by
  simp only [writeParamBody, hp, writeParam_of_not_inRange hv, writeResult_of_not_inRange hv]

/-- On a RUNNING device WRITE_PARAM of a value out of range changes the link alone (R154, R156). -/
theorem exec_writeParam_of_not_inRange (tag : Byte) (hq : s.settle = q) (hl : q.listens) (hr : q.device = .running)
    (hp : Param.ofNum? n = some p) (hv : p.inRange v = false) :
    exec (.writeParam n v tag) s =
      .next (q.answering 0x21 n v tag { result := .badArgument, flags := 0, data := q.param p }) := by
  subst hq
  refine congrArg Host.Outcome.next (linkCommand_taken hl (.inl hr) fun f => ?_)
  rw [writeParamBody_of_not_inRange hp hv, param_shiftFrame]

/-- Settles O44: 0x00, 0x01 and 0x02 name the identity parameters, whose values are no state (R164): a read answers the constant,
and no value is in range for a write, so it is BAD_ARGUMENT before any lock is looked at. -/
theorem identityParametersAreFixed : Obligations.IdentityParametersAreFixed := by
  unfold Obligations.IdentityParametersAreFixed
  intro s q data v tag hq hl
  have hpart : Param.ofNum? 0x00 = some .partId := rfl
  have hrev : Param.ofNum? 0x01 = some .revision := rfl
  have hpool : Param.ofNum? 0x02 = some .poolSize := rfl
  refine ⟨?readPartId, ?readRevision, ?readPoolSize, fun hr => ⟨?writePartId, ?writeRevision, ?writePoolSize⟩⟩
  case readPartId => exact exec_readParam_of_ofNum data tag hq hl hpart
  case readRevision => exact exec_readParam_of_ofNum data tag hq hl hrev
  case readPoolSize => exact exec_readParam_of_ofNum data tag hq hl hpool
  case writePartId => exact exec_writeParam_of_not_inRange tag hq hl hr hpart rfl
  case writeRevision => exact exec_writeParam_of_not_inRange tag hq hl hr hrev rfl
  case writePoolSize => exact exec_writeParam_of_not_inRange tag hq hl hr hpool rfl

end Sys2Proof.Machine
end

section
/-! SUPPORT. The order of one domain, the order of states but for the timers of a RESTARTING device, and the outline of the state it reads. -/

namespace Sys2Proof.Machine


variable {s t : State}

/-! ### The two domains -/

theorem otherDom_ne (d : Dom) : otherDom d ≠ d := by cases d <;> decide

/-- What is said of both domains is said of one and of the other. -/
theorem forall_dom {p : Dom → Prop} (d : Dom) : (∀ e, p e) ↔ p d ∧ p (otherDom d) := by
  refine ⟨fun h => ⟨h _, h _⟩, fun ⟨h, h'⟩ e => ?_⟩
  cases d <;> cases e <;> assumption

@[simp] theorem updDom_dom_otherDom (d : Dom) (f : Domain → Domain) :
    (s.updDom d f).dom (otherDom d) = s.dom (otherDom d) :=
  updDom_dom_other s (otherDom_ne d) f

@[simp] theorem bump_dom_otherDom (d : Dom) (c : DomCounter) (n : Nat) :
    (s.bump d c n).dom (otherDom d) = s.dom (otherDom d) :=
  updDom_dom_otherDom d _

/-- The slots, told from one domain (R1). -/
theorem slots_eq (d : Dom) : s.slots = s.free + (s.dom d).openBank.length + (s.dom d).drainBank.length +
    (s.dom (otherDom d)).openBank.length + (s.dom (otherDom d)).drainBank.length := by
  cases d <;> simp only [State.slots, otherDom, dom_d0, dom_d1] <;> omega

/-! ### The order of one domain -/

/-- What `State.StatesInOrder` says of one domain, with `n` elements in the drain queue, on a device in state `v`; the epoch timer of
a RESTARTING device stands in `State.TimersStopped`. -/
structure Domain.Agrees (x : Domain) (v : DeviceState) (n : Nat) : Prop where
  oneElement : n ≤ 1
  settled : x.sched.settling = true → x.drainBank = [] ∧ n = 0
  drained : n = 0 → x.drainBank = []
  off : x.state = .off → x.openBank = [] ∧ x.drainBank = [] ∧ x.sched = .idle ∧ x.timer = none
  final : x.state = .flushing true → x.openBank = [] ∧ x.sched = .idle
  restarting : v = .restarting → x.openBank = [] ∧ x.sched = .idle
  quota : x.openBank.length ≤ x.params.quota.toNat

/-- `State.StatesInOrder` but for the epoch timers of a RESTARTING device. -/
structure State.StatesAgree (s : State) : Prop where
  conserved : s.slots = Config.poolSize
  counted : ∀ e ∈ s.queue, e.committed = e.retired + (s.dom e.dom).drainBank.length
  domains : ∀ d, (s.dom d).Agrees s.device (s.elementCount d)
  heldSpace : ∀ h, s.held = some h → h.reason = .space → s.journals h.dom
  lowEmpty : s.resetN = false → s.held = none ∧ s.queue = [] ∧ s.engine = .idle ∧ s.device = .running ∧
    ∀ d, (s.dom d).state = .off

/-- R127: no epoch timer runs while the device is RESTARTING. -/
def State.TimersStopped (s : State) : Prop :=
  s.device = .restarting → ∀ d, (s.dom d).timer = none

theorem statesInOrder_iff : s.StatesInOrder ↔ s.StatesAgree ∧ s.TimersStopped := by
  constructor
  · intro h
    refine ⟨⟨h.slots.conserved, h.slots.counted, fun d => ?_, h.heldSpace, h.lowEmpty⟩,
      fun hr d => (h.restartingEmpty hr d).2.2⟩
    exact
      { oneElement := h.slots.oneElement d
        settled := h.slots.settled d
        drained := h.slots.drained d
        off := fun ho => ⟨(h.offEmpty d ho).1, (h.offEmpty d ho).2, h.offIdle d ho⟩
        final := h.finalEmpty d
        restarting := fun hr => ⟨(h.restartingEmpty hr d).1, (h.restartingEmpty hr d).2.1⟩
        quota := h.quota d }
  · rintro ⟨h, hT⟩
    exact
      { slots :=
          { conserved := h.conserved
            oneElement := fun d => (h.domains d).oneElement
            settled := fun d => (h.domains d).settled
            counted := h.counted
            drained := fun d => (h.domains d).drained }
        offEmpty := fun d ho => ⟨((h.domains d).off ho).1, ((h.domains d).off ho).2.1⟩
        offIdle := fun d ho => ((h.domains d).off ho).2.2
        finalEmpty := fun d => (h.domains d).final
        restartingEmpty := fun hr d =>
          ⟨((h.domains d).restarting hr).1, ((h.domains d).restarting hr).2, hT hr d⟩
        heldSpace := h.heldSpace
        quota := fun d => (h.domains d).quota
        lowEmpty := h.lowEmpty }

/-! ### What the order reads -/

/-- What the order reads of a domain. -/
def Domain.outline (x : Domain) : DomState × Nat × Nat × Bool × Bool × Bool × BitVec 10 :=
  (x.state, x.openBank.length, x.drainBank.length, x.sched.settling, decide (x.sched = .idle), x.timer.isNone, x.params.quota)

/-- What the order reads of the drain queue: how many entries of which domain each element has left. -/
def Element.outline (e : Element) : Dom × Nat × Nat := (e.dom, e.committed, e.retired)

/-- What the order reads of the held write. -/
def HeldWrite.outline (h : HeldWrite) : Dom × HeldReason := (h.dom, h.reason)

/-- What the order reads of the state. -/
def State.outline (s : State) :=
  (s.resetN, s.device, s.free, s.engine, s.dom0.outline, s.dom1.outline, s.held.map HeldWrite.outline,
    s.queue.map Element.outline)

theorem Domain.Agrees.congr {x y : Domain} {v : DeviceState} {n : Nat} (h : x.Agrees v n) (ho : y.outline = x.outline) :
    y.Agrees v n := by
  simp only [Domain.outline, Prod.mk.injEq, decide_eq_decide] at ho
  obtain ⟨h1, h2, h3, h4, h5, h6, h7⟩ := ho
  have hopen : y.openBank = [] ↔ x.openBank = [] := by simp only [← List.length_eq_zero_iff, h2]
  have hdrain : y.drainBank = [] ↔ x.drainBank = [] := by simp only [← List.length_eq_zero_iff, h3]
  have htimer : y.timer = none ↔ x.timer = none := by simp only [← Option.isNone_iff_eq_none, h6]
  obtain ⟨a1, a2, a3, a4, a5, a6, a7⟩ := h
  constructor <;> simpa only [hopen, hdrain, htimer, h1, h2, h4, h5, h7]

theorem elementCount_eq_outline (d : Dom) :
    s.elementCount d = (s.queue.map Element.outline).countP fun k => decide (k.1 = d) := by
  rw [List.countP_map]; rfl

/-- What leaves the outline leaves the order. -/
theorem State.StatesAgree.congr (h : s.StatesAgree) (ho : t.outline = s.outline) : t.StatesAgree := by
  simp only [State.outline, Prod.mk.injEq] at ho
  obtain ⟨hr, hv, hf, he, h0, h1, hh, hq⟩ := ho
  have hdom : ∀ d, (t.dom d).outline = (s.dom d).outline := by intro d; cases d <;> assumption
  have hcount : ∀ d, t.elementCount d = s.elementCount d := fun d => by
    rw [elementCount_eq_outline, elementCount_eq_outline, hq]
  have hstate : ∀ d, (t.dom d).state = (s.dom d).state := fun d => congrArg Prod.fst (hdom d)
  have hopen : ∀ d, (t.dom d).openBank.length = (s.dom d).openBank.length := fun d =>
    congrArg (fun k => k.2.1) (hdom d)
  have hdrain : ∀ d, (t.dom d).drainBank.length = (s.dom d).drainBank.length := fun d =>
    congrArg (fun k => k.2.2.1) (hdom d)
  refine ⟨?_, fun e het => ?_, fun d => ?_, fun w hw hs => ?_, fun hl => ?_⟩
  · rw [← h.conserved, slots_eq .d0, slots_eq .d0, hf]
    simp only [hopen, hdrain]
  · have : e.outline ∈ s.queue.map Element.outline := hq ▸ List.mem_map_of_mem het
    obtain ⟨e', he', hee⟩ := List.mem_map.1 this
    simp only [Element.outline, Prod.mk.injEq] at hee
    obtain ⟨e1, e2, e3⟩ := hee
    rw [hdrain, ← e1, ← e2, ← e3]
    exact h.counted e' he'
  · rw [hcount, hv]
    exact (h.domains d).congr (hdom d)
  · have : s.held.map HeldWrite.outline = some w.outline := by rw [← hh, hw]; rfl
    obtain ⟨w', hw', hww⟩ := Option.map_eq_some_iff.1 this
    simp only [HeldWrite.outline, Prod.mk.injEq] at hww
    obtain ⟨e1, e2⟩ := hww
    have := h.heldSpace w' hw' (e2.trans hs)
    simpa only [State.journals, hv, hstate, ← e1] using this
  · obtain ⟨l1, l2, l3, l4, l5⟩ := h.lowEmpty (hr ▸ hl)
    refine ⟨?_, ?_, he.trans l3, hv.trans l4, fun d => (hstate d).trans (l5 d)⟩
    · simpa [l1] using hh
    · simpa [l2] using hq
end Sys2Proof.Machine
end

section
/-! SUPPORT. All that a boundary request and a window write can do (R33 to R37, Table 1.2). -/

namespace Sys2Proof.Machine

variable {s t : State}

/-! ### All that a boundary request can do -/

theorem takesRequests_iff {d : Dom} : s.takesRequests d = true ↔ s.journals d := by
  simp [State.takesRequests, State.journals]

theorem queued_eq_false {d : Dom} : s.queued d = false ↔ s.elementCount d = 0 := by
  simp [State.queued, State.elementCount]

/-- R33 to R37. -/
theorem request_cases (s : State) (d : Dom) (c : Cause) :
    s.request d c = s ∨ s.journals d ∧
      (((s.dom d).sched = .idle ∧ (s.dom d).drainBank = [] ∧ s.elementCount d = 0 ∧
          s.request d c = s.updDom d fun x => x.enterSettle (.create c s.time.tick)) ∨
        ((s.dom d).sched = .idle ∧ s.request d c = s.updDom d fun x => { x with sched := .drainWait (.create c s.time.tick) }) ∨
        (∃ b, (s.dom d).sched = .drainWait b ∧
          s.request d c = (s.updDom d fun x => { x with sched := .drainWait (b.merge c) }).noteMerge d) ∨
        ∃ b g l, (s.dom d).sched = .settle b g l ∧
          s.request d c = (s.updDom d fun x => { x with sched := .settle (b.merge c) g l }).noteMerge d) := by
  by_cases hj : s.journals d
  case neg => exact .inl (by simp [State.request, takesRequests_iff, hj])
  refine .inr ⟨hj, ?_⟩
  have ht : (!s.takesRequests d) = false := by simpa using takesRequests_iff.2 hj
  cases hs : (s.dom d).sched with
  | idle =>
    by_cases hq : ((s.dom d).drainBank.isEmpty && !s.queued d) = true
    · refine .inl ⟨rfl, ?_⟩
      simp only [Bool.and_eq_true, List.isEmpty_iff, Bool.not_eq_true', queued_eq_false] at hq
      exact ⟨hq.1, hq.2, by simp [State.request, ht, hs, hq, queued_eq_false.2 hq.2]⟩
    · exact .inr (.inl ⟨rfl, by simp [State.request, ht, hs, hq]⟩)
  | drainWait b => exact .inr (.inr (.inl ⟨b, rfl, by simp [State.request, ht, hs]⟩))
  | settle b g l => exact .inr (.inr (.inr ⟨b, g, l, rfl, by simp [State.request, ht, hs]⟩))

/-! ### All that a window write can do -/

/-- A window that gives an access its domain names one in use (R115). -/
theorem classify_inUse {a : Addr} {d : Dom} (h : s.classify a = some d) : (s.dom d).state ≠ .off := by
  obtain ⟨w, hw, rfl⟩ := Option.map_eq_some_iff.1 h
  have hmatch := List.find?_some hw
  simp only [Bool.and_eq_true, State.inUse, decide_eq_true_eq] at hmatch
  exact hmatch.2

/-- Table 1.2, R8, R14 to R16, R117. -/
theorem windowWrite_cases {d : Dom} {a : Addr} (be : Lanes) (data : Word) (hc : s.classify a = some d) :
    (be = 0 ∧ s.acceptWp.windowWrite d a be data = s.answerWp false 0) ∨ be ≠ 0 ∧
      ((s.device = .restarting ∧ s.acceptWp.windowWrite d a be data = s.acceptWp.hold d .restart a be data) ∨
        ((s.dom d).state = .flushing true ∧ s.acceptWp.windowWrite d a be data = s.acceptWp.hold d .flush a be data) ∨
        s.journals d ∧
          (s.acceptWp.windowWrite d a be data = (s.acceptWp.coalesceEntry d a be data).answerWp false 0 ∨
            (∀ e ∈ (s.dom d).openBank, e.addr ≠ a) ∧
              ((s.hasRoom d = true ∧
                  s.acceptWp.windowWrite d a be data = (s.acceptWp.appendEntry d a be data).answerWp false 0) ∨
                s.acceptWp.windowWrite d a be data = s.acceptWp.hold d .space a be data ∨
                s.acceptWp.windowWrite d a be data = (s.acceptWp.hold d .space a be data).request d .fill ∨
                s.acceptWp.windowWrite d a be data =
                  ((s.acceptWp.bump d .writeFails 1).raise (.dom d .writeFail)).answerWp true 0))) := by
  have huse := classify_inUse hc
  unfold State.windowWrite
  by_cases hbe : be = 0
  · exact .inl ⟨hbe, if_pos hbe⟩
  refine .inr ⟨hbe, ?_⟩
  rw [if_neg hbe]
  by_cases hr : s.device = .restarting
  · exact .inl ⟨hr, if_pos hr⟩
  rw [acceptWp_device, acceptWp_dom, if_neg hr]
  by_cases hf : (s.dom d).state = .flushing true
  · exact .inr (.inl ⟨hf, if_pos hf⟩)
  rw [if_neg hf]
  have hj : s.journals d := by
    constructor
    · cases h : s.device <;> simp_all
    · rcases h : (s.dom d).state with _ | _ | (_ | _) <;> simp_all
  refine .inr (.inr ⟨hj, ?_⟩)
  unfold State.journalWrite
  simp only [acceptWp_dom]
  by_cases he : ((s.dom d).openBank.lookup a).isSome
  · exact .inl (if_pos he)
  rw [if_neg he]
  refine .inr ⟨fun e hm ha => he (lookup_isSome_iff.2 ⟨e, hm, ha⟩), ?_⟩
  by_cases hroom : s.hasRoom d = true
  · exact .inl ⟨hroom, if_pos hroom⟩
  refine .inr ?_
  have hroom' : ¬s.acceptWp.hasRoom d = true := hroom
  rw [if_neg hroom']
  cases (s.dom d).params.policy with
  | wait => exact .inl rfl
  | early => exact .inr (.inl rfl)
  | refuse => exact .inr (.inr rfl)
end Sys2Proof.Machine
end

section
/-! SUPPORT. Changes of one domain that keep the order of states (R3, R16, R33). -/

namespace Sys2Proof.Machine

variable {s t : State}

/-! ### Changes of one domain -/

/-- A change of one domain that leaves its draining bank and the slots, on a part that is not in reset. -/
theorem State.StatesAgree.change_dom (d : Dom) (h : s.StatesAgree) (ht : t.resetN = true) (hv : t.device = s.device)
    (hq : t.queue = s.queue) (hother : t.dom (otherDom d) = s.dom (otherDom d))
    (hfree : t.free + (t.dom d).openBank.length = s.free + (s.dom d).openBank.length)
    (hdrain : (t.dom d).drainBank = (s.dom d).drainBank) (hd : (t.dom d).Agrees s.device (s.elementCount d))
    (hheld : ∀ w, t.held = some w → w.reason = .space → t.journals w.dom) : t.StatesAgree := by
  have hcount : ∀ e, t.elementCount e = s.elementCount e := fun e => by simp only [State.elementCount, hq]
  have hbank : ∀ e, (t.dom e).drainBank = (s.dom e).drainBank := (forall_dom d).2 ⟨hdrain, by rw [hother]⟩
  refine ⟨?_, fun e he => ?_, (forall_dom d).2 ⟨?_, ?_⟩, hheld, fun hl => absurd ht (by simp [hl])⟩
  · rw [← h.conserved, slots_eq d, slots_eq d, hother, hdrain]
    omega
  · rw [hbank]; exact h.counted e (hq ▸ he)
  · rw [hv, hcount]; exact hd
  · rw [hv, hcount, hother]; exact h.domains _

/-- What a held write waits for is still there after a change that leaves the device state, the states of the domains and the held
write. -/
theorem State.StatesAgree.heldSpace_of_eq (h : s.StatesAgree) (hh : t.held = s.held) (hv : t.device = s.device)
    (hs : ∀ d, (t.dom d).state = (s.dom d).state) : ∀ w, t.held = some w → w.reason = .space → t.journals w.dom := by
  intro w hw hr
  simpa only [State.journals, hv, hs] using h.heldSpace w (hh ▸ hw) hr

/-- A domain that takes journaled writes is in use, before its final commit point, on a RUNNING device. -/
theorem Domain.Agrees.of_journals {x y : Domain} {n : Nat} (h : x.Agrees .running n)
    (hs : x.state = .active ∨ x.state = .flushing false) (hstate : y.state = x.state) (hdrain : y.drainBank = x.drainBank)
    (hsettle : y.sched.settling = true → x.drainBank = [] ∧ n = 0) (hq : y.openBank.length ≤ y.params.quota.toNat) :
    y.Agrees .running n where
  oneElement := h.oneElement
  settled hy := hdrain ▸ hsettle hy
  drained hn := hdrain ▸ h.drained hn
  off ho := by rcases hs with hs | hs <;> simp [hstate, hs] at ho
  final ho := by rcases hs with hs | hs <;> simp [hstate, hs] at ho
  restarting hr := by cases hr
  quota := hq

/-- A new entry at the end of the open bank of a domain that takes journaled writes and has room (R3, R10, R17). -/
theorem State.StatesAgree.placed {d : Dom} {a : Addr} {be : Lanes} {data : Word} (h : s.StatesAgree) (hp : s.Placed t d a be data)
    (hr : s.resetN = true) (hj : s.journals d) (hroom : (s.dom d).openBank.length < (s.dom d).params.quota.toNat)
    (hh : t.held = s.held ∨ t.held = none) : t.StatesAgree := by
  have hdev : t.device = s.device := (congrArg State.device hp.frame :)
  have hstate : (t.dom d).state = (s.dom d).state := (congrArg Domain.state hp.domain :)
  have hsched : (t.dom d).sched = (s.dom d).sched := (congrArg Domain.sched hp.domain :)
  have hdrain : (t.dom d).drainBank = (s.dom d).drainBank := (congrArg Domain.drainBank hp.domain :)
  have hparams : (t.dom d).params = (s.dom d).params := (congrArg Domain.params hp.domain :)
  have hlen : (t.dom d).openBank.length = (s.dom d).openBank.length + 1 := by rw [hp.bank]; simp
  have hslot := hp.slot
  refine h.change_dom d ((congrArg State.resetN hp.frame :).trans hr) hdev (congrArg State.queue hp.frame :) hp.others
    (by omega) hdrain ?_ ?_
  · have hd := h.domains d
    rw [hj.1] at hd ⊢
    exact hd.of_journals hj.2 hstate hdrain (fun hy => hd.settled (hsched ▸ hy)) (by rw [hlen, hparams]; exact hroom)
  · rcases hh with hh | hh
    · exact h.heldSpace_of_eq hh hdev ((forall_dom d).2 ⟨hstate, by rw [hp.others]⟩)
    · intro w hw; simp [hh] at hw

/-- The writer's access becomes the held write, of reason SPACE only where its domain takes journaled writes (R16). -/
theorem State.StatesAgree.held {w : HeldWrite} (h : s.StatesAgree) (hw : s.Held t w) (hr : s.resetN = true)
    (hj : w.reason = .space → s.journals w.dom) : t.StatesAgree := by
  have hdev : t.device = s.device := (congrArg State.device hw.frame :)
  have hfree : t.free = s.free := (congrArg State.free hw.frame :)
  have hx := hw.domain
  have hout : (t.dom w.dom).outline = (s.dom w.dom).outline := by rw [← hx]; rfl
  have hstate : (t.dom w.dom).state = (s.dom w.dom).state := (congrArg Domain.state hx :)
  have hopen : (t.dom w.dom).openBank = (s.dom w.dom).openBank := (congrArg Domain.openBank hx :)
  refine h.change_dom w.dom ((congrArg State.resetN hw.frame :).trans hr) hdev (congrArg State.queue hw.frame :) hw.others
    (by rw [hfree, hopen]) (congrArg Domain.drainBank hx :) ((h.domains _).congr hout) ?_
  intro v hv hs
  rw [hw.record] at hv
  cases hv
  simpa only [State.journals, hdev, hstate] using hj hs

/-! ### Boundary requests -/

theorem noteMerge_outline (d : Dom) : (s.noteMerge d).outline = s.outline := by cases d <;> rfl

/-- A change of the scheduler of a domain that takes requests. -/
theorem State.StatesAgree.sched {d : Dom} (k : Sched) (h : s.StatesAgree) (hr : s.resetN = true) (hj : s.journals d)
    (hk : k.settling = true → (s.dom d).drainBank = [] ∧ s.elementCount d = 0) :
    (s.updDom d fun x => { x with sched := k }).StatesAgree := by
  have hd := h.domains d
  refine h.change_dom d (by simpa) (by simp) (by simp) (by simp) (by simp) (by simp) ?_
    (h.heldSpace_of_eq (by simp) (by simp) ((forall_dom d).2 ⟨by simp, by simp⟩))
  rw [hj.1] at hd ⊢
  rw [updDom_dom_same]
  exact hd.of_journals hj.2 rfl rfl hk hd.quota

theorem State.StatesAgree.request (d : Dom) (c : Cause) (h : s.StatesAgree) (hr : s.resetN = true) :
    (s.request d c).StatesAgree := by
  rcases request_cases s d c with e | ⟨hj, ⟨-, hb, hn, e⟩ | ⟨-, e⟩ | ⟨b, -, e⟩ | ⟨b, g, l, hs, e⟩⟩ <;> rw [e]
  · exact h
  · have := h.sched (d := d) (.settle (.create c s.time.tick) (some (s.dom d).params.groupHold.toNat)
      (some (s.dom d).params.sampleHold.toNat)) hr hj (fun _ => ⟨hb, hn⟩)
    exact this.congr (by cases d <;> rfl)
  · exact h.sched _ hr hj (by simp [Sched.settling])
  · exact (h.sched _ hr hj (by simp [Sched.settling])).congr (noteMerge_outline d)
  · exact (h.sched (.settle (b.merge c) g l) hr hj fun _ => (h.domains d).settled (by rw [hs]; rfl)).congr (noteMerge_outline d)

/-! ### The end of an epoch -/

theorem enqueue_cases (s : State) (d : Dom) :
    ((s.dom d).drainBank = [] ∧ s.enqueue d = s.raise (.dom d .drained)) ∨
      ((s.dom d).drainBank ≠ [] ∧ s.enqueue d = { s with queue := s.queue ++
        [{ dom := d, epoch := (s.dom d).epoch, serial := s.serial, fence := s.cpReads d, phase := .queued
           committed := (s.dom d).drainBank.length, retired := 0 }] }) := by
  unfold State.enqueue
  cases h : (s.dom d).drainBank with
  | nil => exact .inl ⟨rfl, rfl⟩
  | cons e b => exact .inr ⟨by simp, rfl⟩

end Sys2Proof.Machine
end

section
/-! SUPPORT. The notes of a commit point, step by step: what each writes and what it leaves (R60, R61, R47, R72). -/

namespace Sys2Proof.Machine

variable {s t : State}

/-! ### What stands outside the domains, and a domain apart from its counters -/

/-- The state apart from the domains, the free slots and the events. -/
def State.outside (s : State) : State :=
  { s with dom0 := .reset, dom1 := .reset, free := 0, events := State.reset.events }

@[simp] theorem outside_resetN : s.outside.resetN = s.resetN := rfl
@[simp] theorem outside_device : s.outside.device = s.device := rfl
@[simp] theorem outside_held : s.outside.held = s.held := rfl
@[simp] theorem outside_windows : s.outside.windows = s.windows := rfl
@[simp] theorem outside_groups : s.outside.groups = s.groups := rfl
@[simp] theorem outside_groupStates : s.outside.groupStates = s.groupStates := rfl
@[simp] theorem outside_queue : s.outside.queue = s.queue := rfl
@[simp] theorem outside_engine : s.outside.engine = s.engine := rfl
@[simp] theorem outside_arb : s.outside.arb = s.arb := rfl
@[simp] theorem outside_wp : s.outside.wp = s.wp := rfl
@[simp] theorem outside_cp : s.outside.cp = s.cp := rfl
@[simp] theorem outside_wpRead : s.outside.wpRead = s.wpRead := rfl
@[simp] theorem outside_cpRead : s.outside.cpRead = s.cpRead := rfl
@[simp] theorem outside_history : s.outside.history = s.history := rfl
@[simp] theorem outside_serial : s.outside.serial = s.serial := rfl
@[simp] theorem outside_eventEnable : s.outside.eventEnable = s.eventEnable := rfl
@[simp] theorem outside_devCounters : s.outside.devCounters = s.devCounters := rfl
@[simp] theorem outside_tickDiv : s.outside.tickDiv = s.tickDiv := rfl
@[simp] theorem outside_memTimeout : s.outside.memTimeout = s.memTimeout := rfl
@[simp] theorem outside_time : s.outside.time = s.time := rfl
@[simp] theorem outside_recValid : s.outside.recValid = s.recValid := rfl
@[simp] theorem outside_recHeldLost : s.outside.recHeldLost = s.recHeldLost := rfl
@[simp] theorem outside_link : s.outside.link = s.link := rfl
@[simp] theorem outside_pending : s.outside.pending = s.pending := rfl

/-- A domain apart from its counters. -/
def Domain.uncounted (x : Domain) : Domain := { x with counters := Domain.reset.counters }

theorem updDom_outside (d : Dom) (f : Domain → Domain) : (s.updDom d f).outside = s.outside := by cases d <;> rfl
theorem bump_outside (d : Dom) (c : DomCounter) (n : Nat) : (s.bump d c n).outside = s.outside := updDom_outside d _
theorem raise_outside (e : Event) : (s.raise e).outside = s.outside := rfl
theorem free_outside (n : Nat) : ({ s with free := n } : State).outside = s.outside := rfl

theorem bump_uncounted (d e : Dom) (c : DomCounter) (n : Nat) :
    ((s.bump d c n).dom e).uncounted = (s.dom e).uncounted := by cases d <;> cases e <;> rfl

@[simp] theorem bump_event (d : Dom) (c : DomCounter) (n : Nat) (e : Event) : (s.bump d c n).event e = s.event e :=
  event_congr (bump_events s d c n) e

@[simp] theorem updDom_event (d : Dom) (f : Domain → Domain) (e : Event) : (s.updDom d f).event e = s.event e :=
  event_congr (updDom_events s d f) e

@[simp] theorem raise_counter (e : Event) (d : Dom) (c : DomCounter) : (s.raise e).counter d c = s.counter d c :=
  counter_congr (by rw [raise_dom]) c

/-- An operation on a domain that leaves its counters leaves every counter. -/
theorem updDom_counter (d : Dom) {f : Domain → Domain} (hf : ∀ x, (f x).counters = x.counters) (e : Dom) (c : DomCounter) :
    (s.updDom d f).counter e c = s.counter e c := by
  refine counter_congr ?_ c
  by_cases h : e = d
  · rw [h, updDom_dom_same, hf]
  · rw [updDom_dom_other s h]

/-! ### The abandoning of OPEN groups (R60, R61) -/

theorem abandon_outside (d : Dom) : (s.abandon d).outside = s.outside := by
  unfold State.abandon; dsimp only
  split
  · rw [free_outside, updDom_outside]
  · rw [raise_outside, bump_outside, free_outside, updDom_outside]

theorem abandon_uncounted (d : Dom) :
    ((s.abandon d).dom d).uncounted = ({ s.dom d with openBank := s.keptEntries d } : Domain).uncounted := by
  unfold State.abandon; dsimp only
  split
  · cases d <;> rfl
  · cases d <;> rfl

theorem abandon_dom_otherDom (d : Dom) : (s.abandon d).dom (otherDom d) = s.dom (otherDom d) := by
  unfold State.abandon; dsimp only
  split
  · cases d <;> rfl
  · cases d <;> rfl

theorem abandon_free (d : Dom) :
    (s.abandon d).free = s.free + ((s.dom d).openBank.length - (s.keptEntries d).length) := by
  unfold State.abandon; dsimp only
  split <;> simp

theorem abandon_counter (d : Dom) (c : DomCounter) :
    (s.abandon d).counter d c = satAdd (s.counter d c) (if c = .abandoned then (s.openGroups d).length else 0) := by
  have hu : ∀ n, ({ s.updDom d fun x => { x with openBank := s.keptEntries d } with free := n } : State).counter d c =
      s.counter d c := fun n => updDom_counter (s := s) d (f := fun x => { x with openBank := s.keptEntries d })
        (fun _ => rfl) d c
  have hu' : ∀ n, ({ s.updDom d fun x => { x with openBank := s.keptEntries d } with free := n } : State).counter d .abandoned =
      s.counter d .abandoned :=
    fun n => updDom_counter (s := s) d (f := fun x => { x with openBank := s.keptEntries d }) (fun _ => rfl) d _
  unfold State.abandon; dsimp only
  split
  · next hn => rw [hu, hn]; simp
  · rw [raise_counter, bump_counter]
    by_cases hc : c = .abandoned
    · rw [if_pos ⟨rfl, hc⟩, if_pos hc, hu', hc]
    · rw [if_neg (fun k => hc k.2), if_neg hc, hu, satAdd_zero]

theorem abandon_event (d : Dom) (e : Event) :
    (s.abandon d).event e =
      if e = .dom d .groupAbandoned ∧ (s.openGroups d).length ≠ 0 then (s.event e).occur else s.event e := by
  have hu : ∀ n k, ({ s.updDom d fun x => { x with openBank := s.keptEntries d } with free := n } : State).event k =
      s.event k := fun n k => updDom_event (s := s) d (fun x => { x with openBank := s.keptEntries d }) k
  unfold State.abandon; dsimp only
  split
  · next hn => rw [hu, if_neg (fun k => k.2 hn)]
  · next hn =>
    rw [raise_event, bump_event, bump_event, hu, hu]
    by_cases he : e = .dom d .groupAbandoned
    · rw [if_pos he, if_pos ⟨he, hn⟩, he]
    · rw [if_neg he, if_neg (fun k => he k.1)]

/-! ### The notes of a commit point (R47, R72) -/

theorem noteCommit_outside (d : Dom) : (s.noteCommit d).outside = s.outside := by
  unfold State.noteCommit; dsimp only
  split
  · rw [raise_outside, bump_outside]
  · rw [raise_outside, bump_outside, raise_outside, bump_outside]

theorem noteCommit_uncounted (d e : Dom) : ((s.noteCommit d).dom e).uncounted = (s.dom e).uncounted := by
  unfold State.noteCommit; dsimp only
  split
  · rw [raise_dom, bump_uncounted]
  · rw [raise_dom, bump_uncounted, raise_dom, bump_uncounted]

theorem noteCommit_dom_otherDom (d : Dom) : (s.noteCommit d).dom (otherDom d) = s.dom (otherDom d) := by
  unfold State.noteCommit; dsimp only
  split <;> simp

theorem noteCommit_free (d : Dom) : (s.noteCommit d).free = s.free := by
  unfold State.noteCommit; dsimp only
  split <;> simp

theorem noteCommit_counter (d : Dom) (c : DomCounter) :
    (s.noteCommit d).counter d c =
      satAdd (s.counter d c) (if c = .commits then 1 else if c = .overrides then one (!(s.dom d).sampleN) else 0) := by
  have hs : (((s.bump d .commits 1).raise (.dom d .commit)).dom d).sampleN = (s.dom d).sampleN := by
    rw [raise_dom, bump_dom, if_pos rfl]
  unfold State.noteCommit; dsimp only
  rw [hs]
  cases hn : (s.dom d).sampleN
  · by_cases h1 : c = .commits
    · subst h1; simp [bump_counter]
    · by_cases h2 : c = .overrides
      · subst h2; simp [bump_counter, one]
      · simp [bump_counter, h1, h2]
  · by_cases h1 : c = .commits
    · subst h1; simp [bump_counter]
    · by_cases h2 : c = .overrides
      · subst h2; simp [bump_counter, one]
      · simp [bump_counter, h1, h2]

theorem noteCommit_event (d : Dom) (e : Event) :
    (s.noteCommit d).event e =
      if e = .dom d .commit ∨ e = .dom d .sampleOverride ∧ (s.dom d).sampleN = false then (s.event e).occur
      else s.event e := by
  have hs : (((s.bump d .commits 1).raise (.dom d .commit)).dom d).sampleN = (s.dom d).sampleN := by
    rw [raise_dom, bump_dom, if_pos rfl]
  unfold State.noteCommit; dsimp only
  rw [hs]
  cases hn : (s.dom d).sampleN <;> by_cases h1 : e = .dom d .commit
  · subst h1; simp [raise_event]
  · by_cases h2 : e = .dom d .sampleOverride
    · subst h2; simp [raise_event]
    · simp [raise_event, h1, h2]
  · subst h1; simp [raise_event]
  · simp [raise_event, h1]
end Sys2Proof.Machine
end

section
/-! SUPPORT. The commit point, told from the state before it (Table 2.5, R44 to R50, R124). -/

namespace Sys2Proof.Machine

variable {s t : State}

/-! ### The queueing of a committed bank (R48, R49) -/

theorem enqueue_dom (d e : Dom) : (s.enqueue d).dom e = s.dom e := by
  rcases enqueue_cases s d with ⟨-, h⟩ | ⟨-, h⟩ <;> rw [h]
  · exact raise_dom s _ e
  · cases e <;> rfl

theorem enqueue_free (d : Dom) : (s.enqueue d).free = s.free := by
  rcases enqueue_cases s d with ⟨-, h⟩ | ⟨-, h⟩
  · rw [h]; rfl
  · rw [h]

/-- The element of a committed bank. -/
def State.newElement (s : State) (d : Dom) : Element where
  dom := d
  epoch := (s.dom d).epoch
  serial := s.serial
  fence := s.cpReads d
  phase := .queued
  committed := (s.dom d).drainBank.length
  retired := 0

theorem enqueue_queue (d : Dom) :
    (s.enqueue d).queue = if (s.dom d).drainBank = [] then s.queue else s.queue ++ [s.newElement d] := by
  rcases enqueue_cases s d with ⟨hb, h⟩ | ⟨hb, h⟩ <;> rw [h]
  · rw [if_pos hb]; rfl
  · rw [if_neg hb]; rfl

theorem enqueue_event (d : Dom) (e : Event) :
    (s.enqueue d).event e = if e = .dom d .drained ∧ (s.dom d).drainBank = [] then (s.event e).occur else s.event e := by
  rcases enqueue_cases s d with ⟨hb, h⟩ | ⟨hb, h⟩ <;> rw [h]
  · rw [raise_event]
    by_cases he : e = .dom d .drained
    · rw [if_pos he, if_pos ⟨he, hb⟩, he]
    · rw [if_neg he, if_neg (fun k => he k.1)]
  · rw [if_neg (fun k => hb k.2)]
    exact event_congr rfl e

/-! ### Step 9 of a commit point (R50, R124) -/

theorem finishFinal_cases (s : State) (d : Dom) :
    ((s.dom d).drainBank = [] ∧
        s.finishFinal d = (s.updDom d fun x => { x with state := .off, timer := none }).heldToFlush d) ∨
      ((s.dom d).drainBank ≠ [] ∧ s.finishFinal d = (s.updDom d fun x => { x with state := .flushing true }).heldToFlush d) := by
  unfold State.finishFinal
  by_cases h : (s.dom d).drainBank = []
  · refine .inl ⟨h, ?_⟩
    simp only [heldToFlush_dom, updDom_dom_same, List.isEmpty_iff, h, if_true]
    cases d <;> rfl
  · refine .inr ⟨h, ?_⟩
    simp only [heldToFlush_dom, updDom_dom_same, List.isEmpty_iff, h, if_false]

theorem finishFinal_dom (d : Dom) : (s.finishFinal d).dom d = { s.dom d with
    state := if (s.dom d).drainBank = [] then .off else .flushing true
    timer := if (s.dom d).drainBank = [] then none else (s.dom d).timer } := by
  rcases finishFinal_cases s d with ⟨hb, h⟩ | ⟨hb, h⟩ <;> rw [h, heldToFlush_dom, updDom_dom_same] <;> simp [hb]

theorem finishFinal_dom_otherDom (d : Dom) : (s.finishFinal d).dom (otherDom d) = s.dom (otherDom d) := by
  rcases finishFinal_cases s d with ⟨-, h⟩ | ⟨-, h⟩ <;> rw [h, heldToFlush_dom, updDom_dom_otherDom]

theorem finishFinal_free (d : Dom) : (s.finishFinal d).free = s.free := by
  rcases finishFinal_cases s d with ⟨-, h⟩ | ⟨-, h⟩ <;> rw [h] <;> simp

theorem finishFinal_held (d : Dom) : (s.finishFinal d).held = s.held.map fun h =>
    if h.dom = d ∧ h.reason = .space then { h with reason := .flush } else h := by
  rcases finishFinal_cases s d with ⟨-, h⟩ | ⟨-, h⟩ <;> rw [h] <;> simp only [State.heldToFlush, updDom_held]

theorem finishFinal_outside (d : Dom) :
    { (s.finishFinal d).outside with held := s.held } = s.outside := by
  rcases finishFinal_cases s d with ⟨-, h⟩ | ⟨-, h⟩ <;> rw [h] <;> cases d <;> rfl

theorem finishFinal_events (d : Dom) : (s.finishFinal d).events = s.events := by
  rcases finishFinal_cases s d with ⟨-, h⟩ | ⟨-, h⟩ <;> rw [h] <;> simp

/-! ### Steps 1 to 6 of a commit point: the banks swap -/

/-- The record of a commit point, told from the state before it (R46). -/
def State.epochRecord (s : State) (d : Dom) (b : Boundary) : HistoryRecord where
  serial := s.serial + 1
  dom := d
  epoch := (s.dom d).epoch + 1
  causes := b.causes
  merged := b.merged
  final := b.final
  empty := (s.keptEntries d).isEmpty
  sampleOverride := !(s.dom d).sampleN
  abandoned := (s.openGroups d).length
  committed := (s.keptEntries d).length
  waitTicks := min (s.time.tick - b.requestTick) 65535
  drain := if (s.keptEntries d).isEmpty then .notNeeded else .pending
  lost := 0

theorem commitRecord_abandon (d : Dom) (b : Boundary) :
    (s.abandon d).commitRecord d b (s.openGroups d).length = s.epochRecord d b := by
  have hx := abandon_uncounted (s := s) d
  have hopen : ((s.abandon d).dom d).openBank = s.keptEntries d := (congrArg Domain.openBank hx :)
  have hepoch : ((s.abandon d).dom d).epoch = (s.dom d).epoch := (congrArg Domain.epoch hx :)
  have hsample : ((s.abandon d).dom d).sampleN = (s.dom d).sampleN := (congrArg Domain.sampleN hx :)
  have hserial : (s.abandon d).serial = s.serial := by simpa using congrArg State.serial (abandon_outside (s := s) d)
  have htime : (s.abandon d).time = s.time := by simpa using congrArg State.time (abandon_outside (s := s) d)
  simp only [State.commitRecord, State.epochRecord, hopen, hepoch, hsample, hserial, htime]

/-- The state after the steps 1 to 6 of a commit point. -/
def State.swapEpoch (s : State) (d : Dom) (b : Boundary) : State :=
  (((s.abandon d).updDom d Domain.swapBanks).closeGroups d).pushHistory (s.epochRecord d b)

/-- The banks swapped, the epoch counted, the scheduler IDLE (R5, R45 to R47). -/
theorem swapEpoch_uncounted (d : Dom) (b : Boundary) : ((s.swapEpoch d b).dom d).uncounted = ({ s.dom d with
    openBank := [], drainBank := s.keptEntries d, epoch := (s.dom d).epoch + 1, commitOut := !(s.dom d).commitOut
    sched := .idle } : Domain).uncounted := by
  rw [State.swapEpoch, pushHistory_dom, closeGroups_dom, updDom_dom_same]
  exact (congrArg Domain.swapBanks (abandon_uncounted (s := s) d) :)

theorem swapEpoch_dom_otherDom (d : Dom) (b : Boundary) : (s.swapEpoch d b).dom (otherDom d) = s.dom (otherDom d) := by
  rw [State.swapEpoch, pushHistory_dom, closeGroups_dom, updDom_dom_otherDom, abandon_dom_otherDom]

theorem closeGroups_congr {d : Dom} (hw : t.windows = s.windows) (hg : t.groups = s.groups)
    (hs : t.groupStates = s.groupStates) : (t.closeGroups d).groupStates = (s.closeGroups d).groupStates := by
  simp only [State.closeGroups, State.groupDom, State.groupWindow, hw, hg, hs]
  rfl

/-- Outside the domains the groups close and the history takes the record. -/
theorem swapEpoch_outside (d : Dom) (b : Boundary) : (s.swapEpoch d b).outside = { s.outside with
    groupStates := (s.closeGroups d).groupStates
    history := (s.epochRecord d b :: s.history).take 16
    serial := s.serial + 1 } := by
  have hu : ((s.abandon d).updDom d Domain.swapBanks).outside = s.outside :=
    (updDom_outside d _).trans (abandon_outside d)
  have hgroups : (((s.abandon d).updDom d Domain.swapBanks).closeGroups d).groupStates = (s.closeGroups d).groupStates :=
    closeGroups_congr (by simpa using congrArg State.windows hu) (by simpa using congrArg State.groups hu)
      (by simpa using congrArg State.groupStates hu)
  have hserial : ((s.abandon d).updDom d Domain.swapBanks).serial = s.serial := by simpa using congrArg State.serial hu
  have hhistory : ((s.abandon d).updDom d Domain.swapBanks).history = s.history := by
    simpa using congrArg State.history hu
  rw [← hu, ← hgroups, ← hserial, ← hhistory]
  rfl

/-! ### Steps 7 and 8 of a commit point: the notes, the fence, the drain queue -/

theorem fenceRead_cpReads (d e : Dom) : (s.fenceRead d).cpReads e = s.cpReads e := by
  unfold State.cpReads State.fenceRead
  cases s.cpRead with
  | none => rfl
  | some r => dsimp only [Option.map_some]; split <;> rfl

/-- The state after step 7 of a commit point, with the consumer's read fenced. -/
def State.noteEpoch (s : State) (d : Dom) (b : Boundary) : State := ((s.swapEpoch d b).noteCommit d).fenceRead d

theorem noteEpoch_uncounted (d e : Dom) (b : Boundary) :
    ((s.noteEpoch d b).dom e).uncounted = ((s.swapEpoch d b).dom e).uncounted := by
  rw [State.noteEpoch, fenceRead_dom, noteCommit_uncounted]

theorem noteEpoch_outside (d : Dom) (b : Boundary) :
    (s.noteEpoch d b).outside = { (s.swapEpoch d b).outside with cpRead := (s.fenceRead d).cpRead } := by
  have hn := noteCommit_outside (s := s.swapEpoch d b) d
  have hcp : ((s.swapEpoch d b).noteCommit d).cpRead = s.cpRead := by
    simpa using congrArg State.cpRead (hn.trans (swapEpoch_outside d b))
  rw [← hn, State.noteEpoch, State.fenceRead, State.fenceRead, hcp]
  rfl

/-- The element a commit point with entries appends (R48). -/
def State.epochElement (s : State) (d : Dom) : Element where
  dom := d
  epoch := (s.dom d).epoch + 1
  serial := s.serial + 1
  fence := s.cpReads d
  phase := .queued
  committed := (s.keptEntries d).length
  retired := 0

theorem noteEpoch_drainBank (d : Dom) (b : Boundary) : ((s.noteEpoch d b).dom d).drainBank = s.keptEntries d :=
  (congrArg Domain.drainBank ((noteEpoch_uncounted d d b).trans (swapEpoch_uncounted d b)) :)

theorem noteEpoch_newElement (d : Dom) (b : Boundary) : (s.noteEpoch d b).newElement d = s.epochElement d := by
  have hepoch : ((s.noteEpoch d b).dom d).epoch = (s.dom d).epoch + 1 :=
    (congrArg Domain.epoch ((noteEpoch_uncounted d d b).trans (swapEpoch_uncounted d b)) :)
  have hserial : (s.noteEpoch d b).serial = s.serial + 1 :=
    by simpa [swapEpoch_outside] using congrArg State.serial (noteEpoch_outside (s := s) d b)
  have hreads : (s.noteEpoch d b).cpReads d = s.cpReads d := by
    have hcp : (s.noteEpoch d b).cpRead = (s.fenceRead d).cpRead := by
      simpa using congrArg State.cpRead (noteEpoch_outside (s := s) d b)
    rw [← fenceRead_cpReads (s := s) d d, State.cpReads, hcp]
    rfl
  simp only [State.newElement, State.epochElement, noteEpoch_drainBank, hepoch, hserial, hreads]

/-! ### The commit point before the end of a FINAL one -/

/-- What a commit point does in the steps 1 to 8 of Table 2.5. -/
def State.endEpoch (s : State) (d : Dom) (b : Boundary) : State := (s.noteEpoch d b).enqueue d

theorem commit_eq (d : Dom) (b : Boundary) :
    s.commit d b = if b.final then (s.endEpoch d b).finishFinal d else s.endEpoch d b := by
  rw [State.endEpoch, State.noteEpoch, State.swapEpoch, ← commitRecord_abandon]
  rfl

theorem endEpoch_uncounted (d : Dom) (b : Boundary) : ((s.endEpoch d b).dom d).uncounted = ({ s.dom d with
    openBank := [], drainBank := s.keptEntries d, epoch := (s.dom d).epoch + 1, commitOut := !(s.dom d).commitOut
    sched := .idle } : Domain).uncounted := by
  rw [State.endEpoch, enqueue_dom, noteEpoch_uncounted, swapEpoch_uncounted]

theorem endEpoch_dom_otherDom (d : Dom) (b : Boundary) : (s.endEpoch d b).dom (otherDom d) = s.dom (otherDom d) := by
  rw [State.endEpoch, enqueue_dom, State.noteEpoch, fenceRead_dom, noteCommit_dom_otherDom, swapEpoch_dom_otherDom]

theorem endEpoch_free (d : Dom) (b : Boundary) :
    (s.endEpoch d b).free = s.free + ((s.dom d).openBank.length - (s.keptEntries d).length) := by
  rw [State.endEpoch, enqueue_free, State.noteEpoch, fenceRead_free, noteCommit_free, State.swapEpoch, pushHistory_free,
    closeGroups_free, updDom_free, abandon_free]

theorem enqueue_outside (d : Dom) : (s.enqueue d).outside = { s.outside with
    queue := if (s.dom d).drainBank = [] then s.queue else s.queue ++ [s.newElement d] } := by
  rcases enqueue_cases s d with ⟨hb, h⟩ | ⟨hb, h⟩ <;> rw [h]
  · rw [if_pos hb]; rfl
  · rw [if_neg hb]; rfl

/-- Outside the domains a commit point writes the groups, the history, the consumer's read and the drain queue. -/
theorem endEpoch_outside (d : Dom) (b : Boundary) : (s.endEpoch d b).outside = { s.outside with
    groupStates := (s.closeGroups d).groupStates
    history := (s.epochRecord d b :: s.history).take 16
    serial := s.serial + 1
    cpRead := (s.fenceRead d).cpRead
    queue := if s.keptEntries d = [] then s.queue else s.queue ++ [s.epochElement d] } := by
  have hqueue : (s.noteEpoch d b).queue = s.queue := by
    simpa [swapEpoch_outside] using congrArg State.queue (noteEpoch_outside (s := s) d b)
  rw [State.endEpoch, enqueue_outside, noteEpoch_drainBank, noteEpoch_newElement, hqueue, noteEpoch_outside,
    swapEpoch_outside]

/-! ### The commit point -/

theorem endEpoch_drainBank (d : Dom) (b : Boundary) : ((s.endEpoch d b).dom d).drainBank = s.keptEntries d := by
  rw [State.endEpoch, enqueue_dom, noteEpoch_drainBank]

/-- The state of a domain after a commit point: a FINAL one ends its use (R50, R124). -/
def State.stateAfter (s : State) (d : Dom) (b : Boundary) : DomState :=
  if b.final then if s.keptEntries d = [] then .off else .flushing true else (s.dom d).state

/-- The epoch timer of a domain after a commit point (R124). -/
def State.timerAfter (s : State) (d : Dom) (b : Boundary) : Option Nat :=
  if b.final ∧ s.keptEntries d = [] then none else (s.dom d).timer

theorem commit_uncounted (d : Dom) (b : Boundary) : ((s.commit d b).dom d).uncounted = ({ s.dom d with
    openBank := [], drainBank := s.keptEntries d, epoch := (s.dom d).epoch + 1, commitOut := !(s.dom d).commitOut
    sched := .idle, state := s.stateAfter d b, timer := s.timerAfter d b } : Domain).uncounted := by
  have h := endEpoch_uncounted (s := s) d b
  rw [commit_eq, State.stateAfter, State.timerAfter]
  cases b.final
  · simpa using h
  · have htimer : ((s.endEpoch d b).dom d).timer = (s.dom d).timer := (congrArg Domain.timer h :)
    rw [if_pos rfl, if_pos rfl, finishFinal_dom, endEpoch_drainBank, htimer]
    by_cases hk : s.keptEntries d = []
    · rw [if_pos hk, if_pos hk, if_pos ⟨rfl, hk⟩]
      exact (congrArg (fun x : Domain => { x with state := .off, timer := none }) h :)
    · rw [if_neg hk, if_neg hk, if_neg fun k => hk k.2]
      exact (congrArg (fun x : Domain => { x with state := .flushing true, timer := (s.dom d).timer }) h :)

theorem commit_dom_otherDom (d : Dom) (b : Boundary) : (s.commit d b).dom (otherDom d) = s.dom (otherDom d) := by
  rw [commit_eq]
  split
  · rw [finishFinal_dom_otherDom, endEpoch_dom_otherDom]
  · rw [endEpoch_dom_otherDom]

theorem commit_free (d : Dom) (b : Boundary) :
    (s.commit d b).free = s.free + ((s.dom d).openBank.length - (s.keptEntries d).length) := by
  rw [commit_eq]
  split
  · rw [finishFinal_free, endEpoch_free]
  · rw [endEpoch_free]

/-- Outside the domains a commit point writes what `State.endEpoch` writes, and after a FINAL one the reason of the held write. -/
theorem commit_outside (d : Dom) (b : Boundary) : (s.commit d b).outside = { s.outside with
    groupStates := (s.closeGroups d).groupStates
    history := (s.epochRecord d b :: s.history).take 16
    serial := s.serial + 1
    cpRead := (s.fenceRead d).cpRead
    queue := if s.keptEntries d = [] then s.queue else s.queue ++ [s.epochElement d]
    held := s.held.map fun h =>
      if b.final = true ∧ h.dom = d ∧ h.reason = .space then { h with reason := .flush } else h } := by
  have ho := endEpoch_outside (s := s) d b
  have hheld : (s.endEpoch d b).held = s.held := by simpa using congrArg State.held ho
  rw [commit_eq]
  cases b.final
  · simp only [Bool.false_eq_true, if_false, false_and, Option.map_id', ho]
    rfl
  · have hf := finishFinal_held (s := s.endEpoch d b) d
    have hfo := finishFinal_outside (s := s.endEpoch d b) d
    rw [hheld] at hf hfo
    simp only [if_true, true_and, ← hf]
    calc ((s.endEpoch d b).finishFinal d).outside
        = { ({ ((s.endEpoch d b).finishFinal d).outside with held := s.held } : State) with
            held := ((s.endEpoch d b).finishFinal d).held } := rfl
      _ = _ := by rw [hfo, ho]
end Sys2Proof.Machine
end

section
/-! SUPPORT. The drain end, the retirement of an entry, the ends of a RESTART: what each writes and what it leaves (R99 to R102, R126, R128). -/

namespace Sys2Proof.Machine

variable {s t : State}

/-! ### The drain end (R102) -/

theorem drainEnded_state (x : Domain) : x.drainEnded.state = x.state := by
  unfold Domain.drainEnded; split <;> rfl

theorem drainEnded_timer (x : Domain) : x.drainEnded.timer = x.timer := by
  unfold Domain.drainEnded; split <;> rfl

/-- The state of a part whose head element has left, its domain not yet judged for the end of its final drain. -/
def State.drained (s : State) (e : Element) (rest : List Element) : State :=
  ((({ s with queue := rest } : State).updRecord e fun r => { r with drain := .done }).raise (.dom e.dom .drained)).updDom
    e.dom Domain.drainEnded

theorem drained_dom (e : Element) (rest : List Element) : (s.drained e rest).dom e.dom = (s.dom e.dom).drainEnded := by
  rw [State.drained, updDom_dom_same, raise_dom, updRecord_dom]
  rfl

theorem endDrain_cases (s : State) (e : Element) (rest : List Element) :
    ((s.dom e.dom).state = .flushing true ∧ s.endDrain e rest = { (s.drained e rest).goOff e.dom with engine := .idle }) ∨
      ((s.dom e.dom).state ≠ .flushing true ∧ s.endDrain e rest = { s.drained e rest with engine := .idle }) := by
  have hs : ((s.drained e rest).dom e.dom).state = (s.dom e.dom).state := by rw [drained_dom, drainEnded_state]
  by_cases h : (s.dom e.dom).state = .flushing true
  · exact .inl ⟨h, congrArg (fun u : State => { u with engine := .idle }) (if_pos (hs.trans h))⟩
  · exact .inr ⟨h, congrArg (fun u : State => { u with engine := .idle }) (if_neg (fun k => h (hs.symm.trans k)))⟩

theorem engine_dom (g : Engine) (d : Dom) : ({ s with engine := g } : State).dom d = s.dom d := by cases d <;> rfl

theorem endDrain_dom (e : Element) (rest : List Element) : (s.endDrain e rest).dom e.dom =
    { (s.dom e.dom).drainEnded with
      state := if (s.dom e.dom).state = .flushing true then .off else (s.dom e.dom).state
      timer := if (s.dom e.dom).state = .flushing true then none else (s.dom e.dom).timer } := by
  rcases endDrain_cases s e rest with ⟨hs, h⟩ | ⟨hs, h⟩ <;> rw [h, engine_dom]
  · rw [State.goOff, updDom_dom_same, drained_dom, if_pos hs, if_pos hs]
  · rw [drained_dom, if_neg hs, if_neg hs, ← drainEnded_state, ← drainEnded_timer]

theorem endDrain_dom_otherDom (e : Element) (rest : List Element) :
    (s.endDrain e rest).dom (otherDom e.dom) = s.dom (otherDom e.dom) := by
  unfold State.endDrain
  generalize e.dom = d
  dsimp only
  cases d <;> split <;> rfl

theorem endDrain_free (e : Element) (rest : List Element) : (s.endDrain e rest).free = s.free := by
  unfold State.endDrain
  dsimp only
  split <;> simp

/-- Outside the domains a drain end writes the drain queue, the record and the engine. -/
theorem endDrain_outside (e : Element) (rest : List Element) : (s.endDrain e rest).outside = { s.outside with
    queue := rest, history := (s.updRecord e fun r => { r with drain := .done }).history, engine := .idle } := by
  unfold State.endDrain
  generalize e.dom = d
  dsimp only
  cases d <;> split <;> rfl

theorem endDrain_event (e : Element) (rest : List Element) (k : Event) :
    (s.endDrain e rest).event k = if k = .dom e.dom .drained then (s.event k).occur else s.event k := by
  have h : (s.endDrain e rest).events = (s.raise (.dom e.dom .drained)).events := by
    unfold State.endDrain
    dsimp only
    split <;> simp [State.raise]
  rw [event_congr h, raise_event]
  by_cases hk : k = .dom e.dom .drained
  · rw [if_pos hk, if_pos hk, hk]
  · rw [if_neg hk, if_neg hk]

/-! ### The retirement of an entry (R99, R101) -/

theorem noteLost_outside (e : Element) : (s.noteLost e).outside = { s.outside with
    history := (s.updRecord e fun r => { r with lost := r.lost + 1 }).history } := by
  unfold State.noteLost
  generalize e.dom = d
  cases d <;> rfl

theorem noteLost_free (e : Element) : (s.noteLost e).free = s.free := by
  simp [State.noteLost]

theorem noteLost_uncounted (e : Element) (d : Dom) : ((s.noteLost e).dom d).uncounted = (s.dom d).uncounted := by
  rw [State.noteLost, raise_dom, updRecord_dom, bump_uncounted]

theorem noteLost_dom_otherDom (e : Element) : (s.noteLost e).dom (otherDom e.dom) = s.dom (otherDom e.dom) := by
  rw [State.noteLost, raise_dom, updRecord_dom, bump_dom_otherDom]

/-- What the retirement of the entry in position 1 does to the history: a loss is counted in the record. -/
def State.lossNoted (s : State) (e : Element) (lost : Bool) : List HistoryRecord :=
  if lost then (s.updRecord e fun r => { r with lost := r.lost + 1 }).history else s.history

section
variable {e : Element} {rest : List Element} {first : Entry} {bank : Bank}

/-- The state of a part whose head element has retired an entry, before the loss is noted and the next write requested. -/
def State.retired (s : State) (e : Element) (rest : List Element) (bank : Bank) : State :=
  ({ s with queue := { e with retired := e.retired + 1 } :: rest, free := s.free + 1 } : State).updDom e.dom
    fun x => { x with drainBank := bank }

theorem retire_eq (lost : Bool) (hq : s.queue = e :: rest) (hb : (s.dom e.dom).drainBank = first :: bank) :
    s.retire lost =
      (if lost then (s.retired e rest bank).noteLost e else s.retired e rest bank).presentDrain bank := by
  simp only [State.retire, hq, hb]
  rfl

theorem retire_of_nil (lost : Bool) (h : s.queue = [] ∨ ∃ e rest, s.queue = e :: rest ∧ (s.dom e.dom).drainBank = []) :
    s.retire lost = s := by
  rcases h with hq | ⟨e, rest, hq, hb⟩
  · simp only [State.retire, hq]
  · simp only [State.retire, hq, hb]

theorem retired_uncounted : ((s.retired e rest bank).dom e.dom).uncounted =
    ({ s.dom e.dom with drainBank := bank } : Domain).uncounted := by
  unfold State.retired
  generalize e.dom = d
  cases d <;> rfl

theorem retired_outside : (s.retired e rest bank).outside =
    { s.outside with queue := { e with retired := e.retired + 1 } :: rest } := by
  rw [State.retired, updDom_outside]; rfl

theorem retire_uncounted (lost : Bool) (hq : s.queue = e :: rest) (hb : (s.dom e.dom).drainBank = first :: bank) :
    ((s.retire lost).dom e.dom).uncounted = ({ s.dom e.dom with drainBank := bank } : Domain).uncounted := by
  rw [retire_eq lost hq hb, presentDrain_dom, ← retired_uncounted (s := s) (rest := rest)]
  split
  · exact noteLost_uncounted e _
  · rfl

theorem retire_dom_otherDom (lost : Bool) (hq : s.queue = e :: rest) (hb : (s.dom e.dom).drainBank = first :: bank) :
    (s.retire lost).dom (otherDom e.dom) = s.dom (otherDom e.dom) := by
  have h : (s.retired e rest bank).dom (otherDom e.dom) = s.dom (otherDom e.dom) := by
    rw [State.retired, updDom_dom_otherDom]
    generalize otherDom e.dom = d
    cases d <;> rfl
  rw [retire_eq lost hq hb, presentDrain_dom]
  split
  · rw [noteLost_dom_otherDom, h]
  · exact h

theorem retire_free (lost : Bool) (hq : s.queue = e :: rest) (hb : (s.dom e.dom).drainBank = first :: bank) :
    (s.retire lost).free = s.free + 1 := by
  rw [retire_eq lost hq hb]
  split
  · exact (noteLost_free e).trans (by simp [State.retired])
  · exact (by simp [State.retired] : (s.retired e rest bank).free = s.free + 1)

/-- Outside the domains a retirement writes the drain queue, the record and the request of the next write. -/
theorem retire_outside (lost : Bool) (hq : s.queue = e :: rest) (hb : (s.dom e.dom).drainBank = first :: bank) :
    (s.retire lost).outside = { s.outside with
      queue := { e with retired := e.retired + 1 } :: rest
      history := s.lossNoted e lost
      arb := { s.arb with drainReq := bank.head?.map Entry.drainWrite, drainWait := 0 } } := by
  have hp : ∀ u : State, (u.presentDrain bank).outside =
      { u.outside with arb := { u.arb with drainReq := bank.head?.map Entry.drainWrite, drainWait := 0 } } := fun _ => rfl
  have harb : (s.retired e rest bank).arb = s.arb := by simp [State.retired]
  have hhist : ((s.retired e rest bank).updRecord e fun r => { r with lost := r.lost + 1 }).history =
      (s.updRecord e fun r => { r with lost := r.lost + 1 }).history := by
    simp [State.updRecord, State.retired]
  rw [retire_eq lost hq hb, hp]
  cases lost
  · simp only [Bool.false_eq_true, if_false, State.lossNoted, retired_outside, harb]
    rfl
  · simp only [if_true, State.lossNoted, noteLost_outside, retired_outside, hhist]
    rw [show ((s.retired e rest bank).noteLost e).arb = s.arb by simp [State.noteLost, harb]]

end

/-! ### The completion of a RESTART (R128) -/

/-- The state in which the completion of a RESTART releases the held write. -/
def State.restartEnded (s : State) : State :=
  { ((((({ (s.updDom .d0 Domain.restarted).updDom .d1 Domain.restarted with history := [], serial := 0 } :
      State).clearAllCounters).clearEvents).raise .restartDone)) with device := .running }

theorem completeRestart_eq : s.completeRestart = s.restartEnded.releaseRestart := rfl

theorem restartEnded_dom (d : Dom) : s.restartEnded.dom d =
    { s.dom d with state := .off, timer := none, epoch := 0, counters := Domain.reset.counters } := by
  cases d <;> rfl

theorem releaseRestart_cases (s : State) :
    (∃ h, s.held = some h ∧ h.reason = .restart ∧ s.releaseRestart = s.releaseHeld h) ∨
      ((∀ h, s.held = some h → h.reason ≠ .restart) ∧ s.releaseRestart = s) := by
  unfold State.releaseRestart
  cases hh : s.held with
  | none => exact .inr ⟨by simp, rfl⟩
  | some h =>
    by_cases hr : h.reason = .restart
    · exact .inl ⟨h, rfl, hr, by simp [hr]⟩
    · exact .inr ⟨by simpa using hr, by simp [hr]⟩

theorem completeRestart_dom (d : Dom) : s.completeRestart.dom d =
    { s.dom d with state := .off, timer := none, epoch := 0, counters := Domain.reset.counters } := by
  rw [← restartEnded_dom, completeRestart_eq]
  rcases releaseRestart_cases s.restartEnded with ⟨h, -, -, e⟩ | ⟨-, e⟩ <;> rw [e]
  cases d <;> rfl

/-! ### The journal's ends (R21, R22) and the acceptance of a RESTART (R126) -/

theorem freeOpenBank_uncounted (d : Dom) :
    ((s.freeOpenBank d).dom d).uncounted = ({ s.dom d with openBank := [] } : Domain).uncounted := by
  cases d <;> rfl

theorem freeOpenBank_dom_otherDom (d : Dom) : (s.freeOpenBank d).dom (otherDom d) = s.dom (otherDom d) := by
  cases d <;> rfl

theorem freeOpenBank_free (d : Dom) : (s.freeOpenBank d).free = s.free + (s.dom d).openBank.length := by
  simp [State.freeOpenBank]

theorem freeOpenBank_outside (d : Dom) : (s.freeOpenBank d).outside = s.outside := by
  cases d <;> rfl

theorem freeOpenBank_counted (d : Dom) :
    s.counted (s.freeOpenBank d) d fun c => if c = .discarded then (s.dom d).openBank.length else 0 := by
  refine counted_congr (bump_counted (s := { s.updDom d (fun x => { x with openBank := [] }) with
    free := s.free + (s.dom d).openBank.length }) d .discarded (s.dom d).openBank.length) ?_ ?_
  · cases d <;> rfl
  · cases d <;> rfl

theorem acceptRestart_uncounted (d : Dom) : (s.acceptRestart.dom d).uncounted =
    ({ s.dom d with openBank := [], sched := .idle, timer := none } : Domain).uncounted := by
  cases d <;> rfl

theorem acceptRestart_free : s.acceptRestart.free = s.free + s.dom0.openBank.length + s.dom1.openBank.length := rfl

theorem acceptRestart_held : s.acceptRestart.held = s.held.map fun h => { h with reason := .restart } := rfl

theorem acceptRestart_outside : s.acceptRestart.outside = { s.outside with
    device := .restarting
    held := s.held.map fun h => { h with reason := .restart }
    groupStates := ((s.closeGroups .d0).closeGroups .d1).groupStates } := rfl
end Sys2Proof.Machine
end

section
/-! SUPPORT. The drain end and the commit point keep the order of states (R39, R95, R99, R124). -/

namespace Sys2Proof.Machine

variable {s t : State}

/-! ### The moves that leave the outline -/

theorem Domain.Agrees.of_uncounted {x y : Domain} {v : DeviceState} {n : Nat} (h : y.Agrees v n)
    (e : x.uncounted = y.uncounted) : x.Agrees v n :=
  h.congr (congrArg Domain.outline e :)

theorem updDom_outline (d : Dom) {f : Domain → Domain} (hf : (f (s.dom d)).outline = (s.dom d).outline) :
    (s.updDom d f).outline = s.outline := by
  cases d <;> simp only [State.outline, State.updDom, State.setDom, State.dom] at * <;> rw [hf]

theorem coalesceEntry_outline (d : Dom) (a : Addr) (be : Lanes) (data : Word) :
    (s.coalesceEntry d a be data).outline = s.outline := by
  have hlen : ∀ x : Domain, ({ x with openBank := x.openBank.coalesce a be data } : Domain).outline = x.outline := by
    intro x; simp [Domain.outline, Bank.coalesce]
  have hn : ∀ u : State, (u.noteWrite d a).outline = u.outline := by
    intro u; unfold State.noteWrite; split <;> rfl
  rw [State.coalesceEntry, hn]
  exact (updDom_outline d rfl).trans (updDom_outline d (hlen _))

theorem dom_congr (h0 : t.dom0 = s.dom0) (h1 : t.dom1 = s.dom1) (d : Dom) : t.dom d = s.dom d := by
  cases d <;> assumption

/-- Another held write, or none. -/
theorem State.StatesAgree.set_held (h : s.StatesAgree) (hr : s.resetN = true) {l : Option HeldWrite}
    (hl : ∀ w, l = some w → w.reason = .space → s.journals w.dom) : ({ s with held := l } : State).StatesAgree where
  conserved := h.conserved
  counted := h.counted
  domains d := by cases d; exacts [h.domains .d0, h.domains .d1]
  heldSpace w hw hs := by
    have := hl w hw hs
    simpa only [State.journals, dom_congr (s := s) (t := { s with held := l }) rfl rfl] using this
  lowEmpty hlow := absurd hr (by simpa using hlow)

theorem State.StatesAgree.drop_held (h : s.StatesAgree) (hr : s.resetN = true) :
    ({ s with held := none } : State).StatesAgree := h.set_held hr (by simp)

/-! ### The instants -/

theorem drainEnded_banks (x : Domain) : x.drainEnded.openBank = x.openBank ∧ x.drainEnded.drainBank = x.drainBank ∧
    x.drainEnded.params = x.params := by
  unfold Domain.drainEnded; split <;> exact ⟨rfl, rfl, rfl⟩

theorem drainEnded_idle {x : Domain} (h : x.sched = .idle) : x.drainEnded.sched = .idle := by
  unfold Domain.drainEnded; rw [h]; exact h

theorem elementCount_of_cons {e : Element} {rest : List Element} (hq : s.queue = e :: rest) (d : Dom) :
    s.elementCount d = (rest.countP fun k => decide (k.dom = d)) + if e.dom = d then 1 else 0 := by
  simp [State.elementCount, hq, List.countP_cons]

theorem State.StatesAgree.endDrain {e : Element} {rest : List Element} (h : s.StatesAgree) (hq : s.queue = e :: rest)
    (hr : s.resetN = true) (hb : (s.dom e.dom).drainBank = []) : (s.endDrain e rest).StatesAgree := by
  have hx := endDrain_dom (s := s) e rest
  have hy := endDrain_dom_otherDom (s := s) e rest
  have ho := endDrain_outside (s := s) e rest
  have hqueue : (s.endDrain e rest).queue = rest := by simpa using congrArg State.queue ho
  have hdev : (s.endDrain e rest).device = s.device := by simpa using congrArg State.device ho
  have hheld : (s.endDrain e rest).held = s.held := by simpa using congrArg State.held ho
  have hreset : (s.endDrain e rest).resetN = s.resetN := by simpa using congrArg State.resetN ho
  obtain ⟨hopen, hdrain, hparams⟩ := drainEnded_banks (s.dom e.dom)
  have hbank : ∀ d, ((s.endDrain e rest).dom d).drainBank = (s.dom d).drainBank :=
    (forall_dom e.dom).2 ⟨by rw [hx]; exact hdrain, by rw [hy]⟩
  have hcount : ∀ d, (s.endDrain e rest).elementCount d = rest.countP fun k => decide (k.dom = d) := fun d => by
    rw [State.elementCount, hqueue]
  have hd := h.domains e.dom
  have hone := hd.oneElement
  rw [elementCount_of_cons hq, if_pos rfl] at hone
  have hzero : (s.endDrain e rest).elementCount e.dom = 0 := by rw [hcount]; omega
  refine ⟨?_, fun k hk => ?_, (forall_dom e.dom).2 ⟨?_, ?_⟩, fun w hw hs => ?_, fun hl => absurd hr (by simp [← hreset, hl])⟩
  · rw [← h.conserved, slots_eq e.dom, slots_eq e.dom, hbank, hy, hx, endDrain_free]
    simp only [hopen]
  · rw [hbank]
    exact h.counted k (hq ▸ List.mem_cons_of_mem _ (hqueue ▸ hk))
  · rw [hzero, hdev, hx]
    constructor
    · omega
    · exact fun _ => ⟨hdrain.trans hb, rfl⟩
    · exact fun _ => hdrain.trans hb
    · intro hoff
      dsimp only at hoff ⊢
      split at hoff
      · next hf => exact ⟨hopen.trans (hd.final hf).1, hdrain.trans hb, drainEnded_idle (hd.final hf).2, if_pos hf⟩
      · next hf =>
        obtain ⟨h1, -, h3, h4⟩ := hd.off hoff
        exact ⟨hopen.trans h1, hdrain.trans hb, drainEnded_idle h3, by rw [if_neg hf, h4]⟩
    · intro hf
      dsimp only at hf
      split at hf
      · cases hf
      · next hn => exact absurd hf hn
    · exact fun hv => ⟨hopen.trans (hd.restarting hv).1, drainEnded_idle (hd.restarting hv).2⟩
    · dsimp only
      rw [hopen, hparams]
      exact hd.quota
  · rw [hcount, hdev, hy]
    have := h.domains (otherDom e.dom)
    rwa [elementCount_of_cons hq, if_neg (otherDom_ne e.dom).symm] at this
  · have hj := h.heldSpace w (hheld ▸ hw) hs
    have hstate : ∀ d, (s.dom d).state ≠ .flushing true → ((s.endDrain e rest).dom d).state = (s.dom d).state :=
      (forall_dom e.dom).2 ⟨fun hn => by rw [hx]; exact if_neg hn, fun _ => by rw [hy]⟩
    have hn : (s.dom w.dom).state ≠ .flushing true := by rcases hj.2 with k | k <;> simp [k]
    simpa only [State.journals, hdev, hstate _ hn] using hj

theorem keptEntries_length_le (d : Dom) : (s.keptEntries d).length ≤ (s.dom d).openBank.length :=
  List.length_filter_le ..

theorem State.StatesAgree.commit {d : Dom} {b : Boundary} (h : s.StatesAgree) (hs : (s.dom d).sched.settling = true)
    (hr : s.resetN = true) : (s.commit d b).StatesAgree := by
  have hx := commit_uncounted (s := s) d b
  have hy := commit_dom_otherDom (s := s) d b
  have ho := commit_outside (s := s) d b
  have hqueue : (s.commit d b).queue = if s.keptEntries d = [] then s.queue else s.queue ++ [s.epochElement d] := by
    simpa using congrArg State.queue ho
  have hdev : (s.commit d b).device = s.device := by simpa using congrArg State.device ho
  have hheld : (s.commit d b).held = s.held.map fun h =>
      if b.final = true ∧ h.dom = d ∧ h.reason = .space then { h with reason := .flush } else h := by
    simpa using congrArg State.held ho
  have hreset : (s.commit d b).resetN = s.resetN := by simpa using congrArg State.resetN ho
  have hopen : ((s.commit d b).dom d).openBank = [] := (congrArg Domain.openBank hx :)
  have hdrain : ((s.commit d b).dom d).drainBank = s.keptEntries d := (congrArg Domain.drainBank hx :)
  have hstate : ((s.commit d b).dom d).state = s.stateAfter d b := (congrArg Domain.state hx :)
  have hd := h.domains d
  obtain ⟨hb, hn⟩ := hd.settled hs
  have hrun : s.device ≠ .restarting := fun hv => by
    have := (hd.restarting hv).2; simp [this, Sched.settling] at hs
  have huse : (s.dom d).state ≠ .off := fun hoff => by
    have := (hd.off hoff).2.2.1; simp [this, Sched.settling] at hs
  have hnf : (s.dom d).state ≠ .flushing true := fun hf => by
    have := (hd.final hf).2; simp [this, Sched.settling] at hs
  have hother : ∀ k ∈ s.queue, k.dom ≠ d := by
    simpa [State.elementCount] using hn
  have hcount : ∀ e, (s.commit d b).elementCount e =
      s.elementCount e + if e = d ∧ s.keptEntries d ≠ [] then 1 else 0 := by
    intro e
    rw [State.elementCount, hqueue]
    by_cases hk : s.keptEntries d = []
    · simp [hk, State.elementCount]
    · simp [hk, State.elementCount, State.epochElement, eq_comm]
  refine ⟨?_, fun k hk => ?_, (forall_dom d).2 ⟨?_, ?_⟩, fun w hw hsp => ?_, fun hl => absurd hr (by simp [← hreset, hl])⟩
  · have := keptEntries_length_le (s := s) d
    rw [← h.conserved, slots_eq d, slots_eq d, hopen, hdrain, hy, commit_free, hb]
    simp only [List.length_nil]
    omega
  · rw [hqueue] at hk
    have hold : ∀ k ∈ s.queue, k.committed = k.retired + ((s.commit d b).dom k.dom).drainBank.length := fun k hk => by
      have : k.dom = otherDom d := by
        have := hother k hk
        cases hkd : k.dom <;> cases d <;> simp_all [otherDom]
      rw [this, hy, ← this]
      exact h.counted k hk
    split at hk
    · exact hold k hk
    · rcases List.mem_append.1 hk with hk | hk
      · exact hold k hk
      · rw [List.mem_singleton.1 hk]
        simp only [State.epochElement, hdrain, Nat.zero_add]
  · rw [hcount, hn, hdev]
    refine Domain.Agrees.of_uncounted ?_ hx
    constructor
    · split <;> omega
    · intro hset; cases hset
    · intro h0
      by_contra hk
      simp [hk] at h0
    · intro hoff
      have hoff : s.stateAfter d b = .off := hoff
      unfold State.stateAfter at hoff
      split at hoff
      · next hf =>
        split at hoff
        · next hk => exact ⟨rfl, hk, rfl, if_pos ⟨hf, hk⟩⟩
        · cases hoff
      · exact absurd hoff huse
    · exact fun _ => ⟨rfl, rfl⟩
    · exact fun _ => ⟨rfl, rfl⟩
    · exact Nat.zero_le _
  · rw [hcount, if_neg (fun k => otherDom_ne d k.1), hdev, hy]
    exact h.domains _
  · rw [hheld] at hw
    obtain ⟨v, hv, rfl⟩ := Option.map_eq_some_iff.1 hw
    split at hsp
    · cases hsp
    · next hf =>
      have hj := h.heldSpace v hv hsp
      rw [if_neg hf]
      refine ⟨hdev.trans hj.1, ?_⟩
      by_cases hvd : v.dom = d
      · have hnotfinal : ¬b.final = true := fun k => hf ⟨k, hvd, hsp⟩
        rw [hvd, hstate, State.stateAfter, if_neg hnotfinal, ← hvd]
        exact hj.2
      · have : v.dom = otherDom d := by cases hv2 : v.dom <;> cases d <;> simp_all [otherDom]
        rw [this, hy, ← this]
        exact hj.2

end Sys2Proof.Machine
end

section
/-! SUPPORT. Every move keeps the order of states, but for the timers of a RESTARTING device (R1, R6, R12, R119). -/

namespace Sys2Proof.Machine

variable {s t : State}

/-! ### The memory port and the completion of a RESTART -/

theorem State.StatesAgree.retire (lost : Bool) (h : s.StatesAgree) (hr : s.resetN = true) : (s.retire lost).StatesAgree := by
  match hq : s.queue with
  | [] => rw [retire_of_nil lost (.inl hq)]; exact h
  | e :: rest =>
    match hb : (s.dom e.dom).drainBank with
    | [] => rw [retire_of_nil lost (.inr ⟨e, rest, hq, hb⟩)]; exact h
    | first :: bank =>
      have hx := retire_uncounted lost hq hb
      have hy := retire_dom_otherDom lost hq hb
      have ho := retire_outside lost hq hb
      have hqueue : (s.retire lost).queue = { e with retired := e.retired + 1 } :: rest := by
        simpa using congrArg State.queue ho
      have hdev : (s.retire lost).device = s.device := by simpa using congrArg State.device ho
      have hheld : (s.retire lost).held = s.held := by simpa using congrArg State.held ho
      have hopen : ((s.retire lost).dom e.dom).openBank = (s.dom e.dom).openBank := (congrArg Domain.openBank hx :)
      have hdrain : ((s.retire lost).dom e.dom).drainBank = bank := (congrArg Domain.drainBank hx :)
      have hstate : ∀ d, ((s.retire lost).dom d).state = (s.dom d).state :=
        (forall_dom e.dom).2 ⟨(congrArg Domain.state hx :), by rw [hy]⟩
      have hcount : ∀ d, (s.retire lost).elementCount d = s.elementCount d := fun d => by
        rw [State.elementCount, hqueue, elementCount_of_cons hq, List.countP_cons]
        simp
      have hd := h.domains e.dom
      have hsome : s.elementCount e.dom ≠ 0 := by rw [elementCount_of_cons hq, if_pos rfl]; omega
      have hrest : ∀ k ∈ rest, k.dom = otherDom e.dom := fun k hk => by
        have hone := hd.oneElement
        rw [elementCount_of_cons hq, if_pos rfl] at hone
        have hzero : rest.countP (fun k => decide (k.dom = e.dom)) = 0 := by omega
        have : k.dom ≠ e.dom := by simpa using List.countP_eq_zero.1 hzero k hk
        cases hkd : k.dom <;> cases hed : e.dom <;> simp_all [otherDom]
      refine ⟨?_, fun k hk => ?_, (forall_dom e.dom).2 ⟨?_, ?_⟩, h.heldSpace_of_eq hheld hdev hstate, fun hl => ?_⟩
      · rw [← h.conserved, slots_eq e.dom, slots_eq e.dom, hopen, hdrain, hy, retire_free lost hq hb, hb]
        simp only [List.length_cons]
        omega
      · rw [hqueue] at hk
        rcases List.mem_cons.1 hk with rfl | hk
        · have := h.counted e (by simp [hq])
          rw [hb, List.length_cons] at this
          dsimp only
          rw [hdrain]
          omega
        · rw [hrest k hk, hy, ← hrest k hk]
          exact h.counted k (by simp [hq, hk])
      · rw [hcount, hdev]
        refine Domain.Agrees.of_uncounted ?_ hx
        have hne : (s.dom e.dom).drainBank ≠ [] := by simp [hb]
        exact
          { oneElement := hd.oneElement
            settled := fun hset => absurd (hd.settled hset).1 hne
            drained := fun h0 => absurd h0 hsome
            off := fun hoff => absurd (hd.off hoff).2.1 hne
            final := hd.final
            restarting := hd.restarting
            quota := hd.quota }
      · rw [hcount, hdev, hy]
        exact h.domains _
      · have hreset : (s.retire lost).resetN = s.resetN := retire_resetN lost
        exact absurd hr (by simp [← hreset, hl])

theorem countError_outline (err : Bool) : (s.countError err).outline = s.outline := by
  cases err <;> rfl

theorem clearFence_outline (r : ReadRecord) : (s.clearFence r).outline = s.outline := by
  unfold State.clearFence
  split
  · next d _ _ =>
    have hq : (s.queue.map fun e => if e.dom = d then { e with fence := false } else e).map Element.outline =
        s.queue.map Element.outline := by
      rw [List.map_map]
      refine List.map_congr_left fun e _ => ?_
      rw [Function.comp_apply]
      split <;> rfl
    simp only [State.outline, hq]
  · rfl

theorem finishCpRead_outline (err : Bool) (mem : Word) : (s.finishCpRead err mem).outline = s.outline := by
  unfold State.finishCpRead
  dsimp only
  split
  · rw [clearFence_outline]; rfl
  · rfl

theorem State.StatesAgree.deliver (o : Outstanding) (err : Bool) (mem : Word) (h : s.StatesAgree) (hr : s.resetN = true) :
    (s.deliver o err mem).StatesAgree := by
  unfold State.deliver
  split
  · exact h.retire err hr
  · refine h.congr ((countError_outline err).trans ?_)
    split
    · rfl
    · exact finishCpRead_outline err mem
  · refine h.congr ((countError_outline err).trans ?_)
    split <;> rfl

theorem State.StatesAgree.completeRestart (h : s.StatesAgree) (hr : s.resetN = true) (hv : s.device = .restarting)
    (hq : s.queue = []) : s.completeRestart.StatesAgree := by
  have hcount : ∀ d, s.elementCount d = 0 := fun d => by simp [State.elementCount, hq]
  have hends : s.restartEnded.StatesAgree := by
    refine ⟨h.conserved, fun e he => ?_, fun d => ?_, fun w hw hs => ?_, fun hl => by cases hr.symm.trans hl⟩
    · have : e ∈ s.queue := he
      simp [hq] at this
    · have hd := h.domains d
      have hdrain := hd.drained (hcount d)
      obtain ⟨hopen, hidle⟩ := hd.restarting hv
      rw [restartEnded_dom, show s.restartEnded.elementCount d = 0 from hcount d]
      exact
        { oneElement := Nat.zero_le 1
          settled := fun _ => ⟨hdrain, rfl⟩
          drained := fun _ => hdrain
          off := fun _ => ⟨hopen, hdrain, hidle, rfl⟩
          final := fun _ => ⟨hopen, hidle⟩
          restarting := fun _ => ⟨hopen, hidle⟩
          quota := by simp [hopen] }
    · have := (h.heldSpace w hw hs).1
      simp [hv] at this
  rw [completeRestart_eq]
  rcases releaseRestart_cases s.restartEnded with ⟨w, -, -, e⟩ | ⟨-, e⟩ <;> rw [e]
  · exact (hends.drop_held hr).congr rfl
  · exact hends

/-! ### Reset -/

theorem Domain.agrees_of_off {x : Domain} {v : DeviceState} (ho : x.openBank = []) (hd : x.drainBank = []) (hs : x.sched = .idle)
    (ht : x.timer = none) : x.Agrees v 0 where
  oneElement := Nat.zero_le 1
  settled _ := ⟨hd, rfl⟩
  drained _ := hd
  off _ := ⟨ho, hd, hs, ht⟩
  final _ := ⟨ho, hs⟩
  restarting _ := ⟨ho, hs⟩
  quota := by simp [ho]

theorem State.StatesAgree.set_engine (h : s.StatesAgree) (hr : s.resetN = true) (g : Engine) :
    ({ s with engine := g } : State).StatesAgree where
  conserved := h.conserved
  counted k hk := by simpa only [engine_dom] using h.counted k hk
  domains d := by rw [engine_dom]; exact h.domains d
  heldSpace w hw hs := by simpa only [State.journals, engine_dom] using h.heldSpace w hw hs
  lowEmpty hl := by cases hr.symm.trans hl

/-- A part whose blocks are in their reset states (R23, R42, R106). -/
theorem statesAgree_of_reset (ho : ({ s with resetN := true } : State).outline = State.reset.outline) : s.StatesAgree := by
  have hreset : ({ State.reset with resetN := s.resetN } : State).StatesAgree :=
    { conserved := rfl
      counted := fun e he => by cases he
      domains := fun d => by cases d <;> exact Domain.agrees_of_off rfl rfl rfl rfl
      heldSpace := fun w hw => by cases hw
      lowEmpty := fun _ => ⟨rfl, rfl, rfl, rfl, fun d => by cases d <;> rfl⟩ }
  refine hreset.congr ?_
  simp only [State.outline, Prod.mk.injEq] at ho ⊢
  exact ⟨trivial, ho.2⟩

/-! ### Commands -/

theorem State.StatesAgree.discardOpen {d : Dom} (h : s.StatesAgree) (hr : s.resetN = true) : (s.discardOpen d).StatesAgree := by
  have hx := freeOpenBank_uncounted (s := s) d
  have ho := freeOpenBank_outside (s := s) d
  have hd := h.domains d
  refine State.StatesAgree.congr (s := s.freeOpenBank d) ?_ rfl
  have hstate : ((s.freeOpenBank d).dom d).state = (s.dom d).state := (congrArg Domain.state hx :)
  have hopen : ((s.freeOpenBank d).dom d).openBank = [] := (congrArg Domain.openBank hx :)
  have hheld : (s.freeOpenBank d).held = s.held := by simpa using congrArg State.held ho
  have hdev : (s.freeOpenBank d).device = s.device := by simpa using congrArg State.device ho
  refine h.change_dom d ?_ hdev (by simpa using congrArg State.queue ho) (freeOpenBank_dom_otherDom d) ?_
    (congrArg Domain.drainBank hx :) (Domain.Agrees.of_uncounted ?_ hx) (h.heldSpace_of_eq hheld hdev ?_)
  · have : (s.freeOpenBank d).resetN = s.resetN := by simpa using congrArg State.resetN ho
    rw [this, hr]
  · rw [freeOpenBank_free, hopen, List.length_nil, Nat.add_zero]
  · exact
      { oneElement := hd.oneElement
        settled := hd.settled
        drained := hd.drained
        off := fun hoff => ⟨rfl, (hd.off hoff).2⟩
        final := fun hf => ⟨rfl, (hd.final hf).2⟩
        restarting := fun hv => ⟨rfl, (hd.restarting hv).2⟩
        quota := Nat.zero_le _ }
  · exact (forall_dom d).2 ⟨hstate, by rw [freeOpenBank_dom_otherDom]⟩

theorem State.StatesAgree.acceptRestart (h : s.StatesAgree) (hr : s.resetN = true) : s.acceptRestart.StatesAgree := by
  have hx := fun d => acceptRestart_uncounted (s := s) d
  have hopen : ∀ d, (s.acceptRestart.dom d).openBank = [] := fun d => (congrArg Domain.openBank (hx d) :)
  have hdrain : ∀ d, (s.acceptRestart.dom d).drainBank = (s.dom d).drainBank := fun d => (congrArg Domain.drainBank (hx d) :)
  refine ⟨?_, fun e he => ?_, fun d => Domain.Agrees.of_uncounted ?_ (hx d), fun w hw hs => ?_,
    fun hl => by cases hr.symm.trans hl⟩
  · rw [← h.conserved, slots_eq .d0, slots_eq .d0, hopen, hopen, hdrain, hdrain, acceptRestart_free]
    simp only [otherDom, dom_d0, dom_d1, List.length_nil]
    omega
  · rw [hdrain]; exact h.counted e he
  · have hd := h.domains d
    have hcount : s.acceptRestart.elementCount d = s.elementCount d := rfl
    rw [hcount]
    exact
      { oneElement := hd.oneElement
        settled := fun hset => by cases hset
        drained := hd.drained
        off := fun hoff => ⟨rfl, (hd.off hoff).2.1, rfl, rfl⟩
        final := fun _ => ⟨rfl, rfl⟩
        restarting := fun _ => ⟨rfl, rfl⟩
        quota := Nat.zero_le _ }
  · rw [acceptRestart_held] at hw
    obtain ⟨v, -, rfl⟩ := Option.map_eq_some_iff.1 hw
    cases hs

/-- A change of the state, the epoch timer and the parameters of a domain that has nothing in its open bank, or keeps its quota. -/
theorem State.StatesAgree.configure {d : Dom} {f : Domain → Domain} (h : s.StatesAgree) (hr : s.resetN = true)
    (hopen : (f (s.dom d)).openBank = (s.dom d).openBank) (hdrain : (f (s.dom d)).drainBank = (s.dom d).drainBank)
    (hsched : (f (s.dom d)).sched = (s.dom d).sched)
    (hstate : (f (s.dom d)).state = (s.dom d).state ∨
      (f (s.dom d)).state = .active ∨ (f (s.dom d)).state = .flushing false)
    (htimer : (f (s.dom d)).state = .off → (s.dom d).timer = none → (f (s.dom d)).timer = none)
    (hquota : (s.dom d).openBank = [] ∨ (f (s.dom d)).params.quota = (s.dom d).params.quota) : (s.updDom d f).StatesAgree := by
  have hd := h.domains d
  have hback : ∀ k, k = .off ∨ k = .flushing true → (f (s.dom d)).state = k → (s.dom d).state = k := fun k hk hf => by
    rcases hstate with e | e | e
    · exact e ▸ hf
    · rcases hk with rfl | rfl <;> cases e.symm.trans hf
    · rcases hk with rfl | rfl <;> cases e.symm.trans hf
  refine h.change_dom d (by simpa) (by simp) (by simp) (by simp) (by simp [hopen]) (by simp [hdrain]) ?_ fun w hw hs => ?_
  · rw [updDom_dom_same]
    exact
      { oneElement := hd.oneElement
        settled := by rw [hsched, hdrain]; exact hd.settled
        drained := by rw [hdrain]; exact hd.drained
        off := fun hoff => by
          have hs := hback _ (.inl rfl) hoff
          rw [hopen, hdrain, hsched]
          exact ⟨(hd.off hs).1, (hd.off hs).2.1, (hd.off hs).2.2.1, htimer hoff (hd.off hs).2.2.2⟩
        final := fun hf => by rw [hopen, hsched]; exact hd.final (hback _ (.inr rfl) hf)
        restarting := by rw [hopen, hsched]; exact hd.restarting
        quota := by
          rw [hopen]
          rcases hquota with e | e
          · simp [e]
          · rw [e]; exact hd.quota }
  · have hj := h.heldSpace w (by simpa using hw) hs
    refine ⟨by simpa using hj.1, ?_⟩
    by_cases hwd : w.dom = d
    · rw [hwd, updDom_dom_same]
      rcases hstate with e | e
      · rw [e, ← hwd]; exact hj.2
      · exact e
    · rw [updDom_dom_other s hwd]; exact hj.2

theorem writeTimerRun_timer {x : Domain} {run : Bool} (ho : x.state = .off) (ht : x.timer = none) :
    (x.writeTimerRun run).timer = none := by
  cases run <;> simp [Domain.writeTimerRun, ho, ht]

theorem State.StatesAgree.store {p : Param} {v : Word} (h : s.StatesAgree) (hr : s.resetN = true)
    (hl : s.locks p v = false) : (s.store p v).StatesAgree := by
  cases p with
  | setting d q =>
    refine h.configure (f := fun x => x.writeSetting q v) hr ?_ ?_ ?_ (.inl ?_) ?_ ?_
    · cases q <;> rfl
    · cases q <;> rfl
    · cases q <;> rfl
    · cases q <;> rfl
    · cases q with
      | timerRun => exact fun ho ht => writeTimerRun_timer ho ht
      | quota => exact fun _ ht => ht
      | policy => exact fun _ ht => ht
      | writeHold => exact fun _ ht => ht
      | period => exact fun _ ht => ht
      | lineEn => exact fun _ ht => ht
      | groupHold => exact fun _ ht => ht
      | sampleHold => exact fun _ ht => ht
    · cases q with
      | quota =>
        have hoff : (s.dom d).state = .off := by simpa [State.locks, State.governors, State.inUse] using hl
        exact .inl ((h.domains d).off hoff).1
      | policy => exact .inr rfl
      | writeHold => exact .inr rfl
      | period => exact .inr rfl
      | timerRun => exact .inr rfl
      | lineEn => exact .inr rfl
      | groupHold => exact .inr rfl
      | sampleHold => exact .inr rfl
  | partId => exact h
  | revision => exact h
  | poolSize => exact h
  | tickDiv => exact h.congr rfl
  | memTimeout => exact h.congr rfl
  | eventEnable => exact h.congr rfl
  | winBase w => exact h.congr rfl
  | winCtrl w => exact h.congr rfl
  | grp g => exact h.congr rfl

/-! ### Every move -/

theorem tickLimits_outline : s.tickLimits.outline = s.outline := by
  have hx : ∀ x : Domain, x.tickLimits.outline = x.outline := by
    intro x
    have ht : (tickLeft x.timer).isNone = x.timer.isNone := by cases x.timer <;> rfl
    cases hs : x.sched <;> simp [Domain.outline, Domain.tickLimits, ht, hs, Sched.settling]
  have hh : (s.held.map fun h => { h with left := h.left - 1 }).map HeldWrite.outline = s.held.map HeldWrite.outline := by
    cases s.held <;> rfl
  simp only [State.outline, State.tickLimits, hx, hh]

theorem expireHold_outline (d : Dom) :
    (s.updDom d Domain.expireGroupHold).outline = s.outline ∧ (s.updDom d Domain.expireSampleHold).outline = s.outline := by
  constructor <;> apply updDom_outline
  · unfold Domain.expireGroupHold
    split <;> simp_all [Domain.outline, Sched.settling]
  · unfold Domain.expireSampleHold
    split <;> simp_all [Domain.outline, Sched.settling]

theorem windowWrite_agree {d : Dom} {a : Addr} (be : Lanes) (data : Word) (h : s.StatesAgree) (hw : s.wpAccepts = true)
    (hc : s.classify a = some d) : (s.acceptWp.windowWrite d a be data).StatesAgree := by
  have hr : s.resetN = true := by
    simp only [State.wpAccepts, Bool.and_eq_true] at hw
    exact hw.1
  have hacc : s.acceptWp.StatesAgree := h.congr rfl
  have hheld : ∀ r : HeldReason, (r = .space → s.journals d) → (s.acceptWp.hold d r a be data).StatesAgree := fun r hj =>
    h.held (hold_held d r a be data) hr hj
  rcases windowWrite_cases be data hc with ⟨-, e⟩ | ⟨-, ⟨-, e⟩ | ⟨-, e⟩ | ⟨hj, e | ⟨-, ⟨hroom, e⟩ | e | e | e⟩⟩⟩ <;> rw [e]
  · exact h.congr rfl
  · exact hheld _ (by simp)
  · exact hheld _ (by simp)
  · exact hacc.congr (coalesceEntry_outline d a be data)
  · simp only [State.hasRoom, Bool.and_eq_true, decide_eq_true_eq] at hroom
    refine hacc.placed (appendEntry_placed d a be data hroom.2) hr ?_ (by rw [acceptWp_dom]; exact hroom.1) (.inl ?_)
    · rwa [State.journals, acceptWp_device, acceptWp_dom]
    · simp [State.appendEntry]
  · exact hheld _ fun _ => hj
  · exact (hheld _ fun _ => hj).request d .fill (by simpa [State.hold] using hr)
  · exact h.congr (by cases d <;> rfl)

/-- Every move keeps the order of states, but for the timers of a RESTARTING device. -/
theorem keptByMoves_statesAgree : KeptByMoves State.StatesAgree where
  pending l h := h.congr rfl
  link k h := h.congr rfl
  time b h := h.congr rfl
  place {s w} h hh hr hs hroom := by
    simp only [State.hasRoom, Bool.and_eq_true, decide_eq_true_eq] at hroom
    have hdom := dom_congr (t := { s with held := none }) (s := s) rfl rfl w.dom
    refine (h.drop_held hr).placed (appendEntry_placed w.dom w.addr w.be w.data hroom.2) hr ?_ ?_ (.inr ?_)
    · simpa only [State.journals, hdom] using h.heldSpace w hh hs
    · rw [hdom]; exact hroom.1
    · simp [State.placeHeld, State.appendEntry]
  drainEnd h hq hr _ hb := h.endDrain hq hr hb
  commit h hs hr _ := h.commit (by rw [hs]; rfl) hr
  release h _ hr _ _ := (h.drop_held hr).congr rfl
  begin {s e rest} h hq hr _ _ _ := by
    exact (h.set_engine hr .writing).congr
      (by simp [State.outline, State.beginBank, State.presentDrain, hq, Element.outline])
  restartDone h hr hv hq := h.completeRestart hr hv hq
  grant h _ _ _ _ _ := h.congr rfl
  deliver _ err mem h hr _ _ := State.StatesAgree.deliver _ err mem (h.congr rfl) hr
  cancelEnds h _ := h.congr rfl
  answersEnd h _ := h.congr rfl
  windowWrite be data h hw hc := windowWrite_agree be data h hw hc
  writerWritesThrough a be data h _ := h.congr rfl
  writerReads d a h _ := h.congr (by unfold State.startWpRead; split <;> rfl)
  writerReadsThrough a be data h _ := h.congr (by unfold State.startWpRead; split <;> rfl)
  consumerReads d a h _ := h.congr (by unfold State.startCpRead; split <;> rfl)
  consumerReadsThrough a be data h _ := h.congr (by unfold State.startCpRead; split <;> rfl)
  consumerWritesThrough a be data h _ := h.congr rfl
  consumerRefused d h _ := h.congr (by cases d <;> rfl)
  timer {s} d h hr ht := by
    refine h.congr (updDom_outline d ?_)
    have hn : (s.dom d).timer.isNone = false := by rw [← Option.not_isSome, ht]; rfl
    simp only [Domain.outline, hn, Option.isNone_some]
  request d c h hr _ := h.request d c hr
  groupHold d h _ := h.congr (expireHold_outline d).1
  sampleHold d h _ := h.congr (expireHold_outline d).2
  writeHold {s w} h hr _ := (h.drop_held hr).congr (by cases hd : w.dom <;> simp [State.expireHeld, State.bump, hd] <;> rfl)
  epochIn d v h _ := h.congr (updDom_outline d rfl)
  sampleN d v h _ := h.congr (updDom_outline d rfl)
  tick h _ := h.congr tickLimits_outline
  assertReset _ _ := statesAgree_of_reset rfl
  released l _ _ := statesAgree_of_reset rfl
  powerUp s high l := statesAgree_of_reset rfl
  bumpDev c h := h.congr rfl
  linkError h := h.congr rfl
  store h hr _ hl := h.store hr hl
  clearPending i h := h.congr rfl
  clearDom d h := h.congr (by cases d <;> rfl)
  clearDev h := h.congr rfl
  start h hr _ _ _ := h.configure hr rfl rfl rfl (.inr (.inl rfl)) (fun hs => by cases hs) (.inr rfl)
  stop {s d} h hr _ _ := by
    have hf : (s.updDom d fun x => { x with state := .flushing false }).StatesAgree :=
      h.configure hr rfl rfl rfl (.inr (.inr rfl)) (fun hs => by cases hs) (.inr rfl)
    exact hf.request d .stop (by simpa using hr)
  discard h hr _ _ := h.discardOpen hr
  restart h hr _ := h.acceptRestart hr

end Sys2Proof.Machine
end

section
/-! SUPPORT. The epoch timers of a RESTARTING device: limits and instants start none (R127). -/

namespace Sys2Proof.Machine

variable {s t : State}

/-! ### The device state and the epoch timers -/

/-- What R127 speaks of: the device state and the epoch timers. -/
def State.clock (s : State) : DeviceState × Option Nat × Option Nat := (s.device, s.dom0.timer, s.dom1.timer)

theorem clock_eq_iff : t.clock = s.clock ↔ t.device = s.device ∧ ∀ d, (t.dom d).timer = (s.dom d).timer := by
  rw [forall_dom .d0]
  simp only [State.clock, Prod.mk.injEq, dom_d0, dom_d1, otherDom]

theorem State.TimersStopped.congr (h : s.TimersStopped) (hc : t.clock = s.clock) : t.TimersStopped := by
  obtain ⟨hv, ht⟩ := clock_eq_iff.1 hc
  intro hr d
  rw [ht]
  exact h (hv ▸ hr) d

/-- With the device RUNNING nothing is said. -/
theorem timersStopped_of_running (hv : t.device = .running) : t.TimersStopped := by
  intro hr
  cases hv.symm.trans hr

theorem updDom_clock (d : Dom) {f : Domain → Domain} (hf : ∀ x, (f x).timer = x.timer) : (s.updDom d f).clock = s.clock :=
  clock_eq_iff.2 ⟨by simp, fun e => updDom_dom_timer d e hf⟩

theorem request_clock (d : Dom) (c : Cause) : (s.request d c).clock = s.clock := by
  refine clock_eq_iff.2 ⟨?_, fun e => request_dom_timer d e c⟩
  rcases request_cases s d c with e | ⟨-, ⟨-, -, -, e⟩ | ⟨-, e⟩ | ⟨b, -, e⟩ | ⟨b, g, l, -, e⟩⟩ <;> rw [e] <;>
    simp [State.noteMerge]

theorem retire_clock (lost : Bool) : (s.retire lost).clock = s.clock := by
  match hq : s.queue with
  | [] => rw [retire_of_nil lost (.inl hq)]
  | e :: rest =>
    match hb : (s.dom e.dom).drainBank with
    | [] => rw [retire_of_nil lost (.inr ⟨e, rest, hq, hb⟩)]
    | first :: bank =>
      exact clock_eq_iff.2 ⟨by simpa using congrArg State.device (retire_outside lost hq hb), (forall_dom e.dom).2
        ⟨(congrArg Domain.timer (retire_uncounted lost hq hb) :), by rw [retire_dom_otherDom lost hq hb]⟩⟩

theorem countError_clock (err : Bool) : (s.countError err).clock = s.clock := by cases err <;> rfl

theorem finishCpRead_clock (err : Bool) (mem : Word) : (s.finishCpRead err mem).clock = s.clock := by
  unfold State.finishCpRead State.clearFence
  dsimp only
  split
  · split <;> rfl
  · rfl

theorem deliver_clock (o : Outstanding) (err : Bool) (mem : Word) : (s.deliver o err mem).clock = s.clock := by
  unfold State.deliver
  split
  · exact retire_clock err
  · rw [countError_clock]
    split
    · rfl
    · exact finishCpRead_clock err mem
  · rw [countError_clock]
    split <;> rfl

theorem withdraw_clock : s.withdraw.clock = s.clock := by
  unfold State.withdraw
  split
  · rfl
  · rw [deliver_clock]; rfl

theorem noteWrite_clock (d : Dom) (a : Addr) : (s.noteWrite d a).clock = s.clock := by
  unfold State.noteWrite; split <;> rfl

theorem appendEntry_clock (d : Dom) (a : Addr) (be : Lanes) (data : Word) : (s.appendEntry d a be data).clock = s.clock := by
  rw [State.appendEntry, noteWrite_clock]
  cases d <;> rfl

theorem windowWrite_clock {d : Dom} {a : Addr} (be : Lanes) (data : Word) (hc : s.classify a = some d) :
    (s.acceptWp.windowWrite d a be data).clock = s.clock := by
  have hh : ∀ r, (s.acceptWp.hold d r a be data).clock = s.clock := fun r => by cases d <;> rfl
  rcases windowWrite_cases be data hc with ⟨-, e⟩ | ⟨-, ⟨-, e⟩ | ⟨-, e⟩ | ⟨-, e | ⟨-, ⟨-, e⟩ | e | e | e⟩⟩⟩ <;> rw [e]
  · rfl
  · exact hh _
  · exact hh _
  · rw [State.coalesceEntry]
    exact (noteWrite_clock d a).trans (by cases d <;> rfl)
  · exact (appendEntry_clock d a be data).trans rfl
  · exact hh _
  · exact (request_clock d .fill).trans (hh _)
  · cases d <;> rfl

/-! ### The part's own instants -/

/-- One of the part's own instants takes `s` to `t`. -/
def State.instant (s t : State) : Prop :=
  s.tryPlace = some t ∨ s.tryDrainEnd = some t ∨ (∃ d, s.tryCommit d = some t) ∨ s.tryRelease = some t ∨
    s.tryBegin = some t ∨ s.tryRestart = some t ∨ s.tryGrant = some t

theorem instant_of_advance {h : Hold} (ha : s.advance h = some t) : s.instant t := by
  rcases advance_cases ha with h | h | ⟨d, -, h⟩ | h | h | h | ⟨-, h⟩
  · exact .inl h
  · exact .inr (.inl h)
  · exact .inr (.inr (.inl ⟨d, h⟩))
  · exact .inr (.inr (.inr (.inl h)))
  · exact .inr (.inr (.inr (.inr (.inl h))))
  · exact .inr (.inr (.inr (.inr (.inr (.inl h)))))
  · exact .inr (.inr (.inr (.inr (.inr (.inr h)))))

theorem State.TimersStopped.instant (hs : s.TimersStopped) (ht : s.instant t) : t.TimersStopped := by
  rcases ht with h | h | ⟨d, h⟩ | h | h | h | h
  · obtain ⟨w, -, -, -, -, rfl⟩ := tryPlace_eq_some.1 h
    exact hs.congr (appendEntry_clock (s := { s with held := none }) ..)
  · obtain ⟨e, r, -, -, -, -, rfl⟩ := tryDrainEnd_eq_some.1 h
    intro hr
    have hr : s.device = .restarting := by
      rw [← hr]; simpa using (congrArg State.device (endDrain_outside (s := s) e r)).symm
    refine (forall_dom e.dom).2 ⟨?_, by rw [endDrain_dom_otherDom]; exact hs hr _⟩
    rw [endDrain_dom]
    dsimp only
    rw [hs hr, ite_self]
  · obtain ⟨b, g, l, -, -, -, rfl⟩ := tryCommit_eq_some.1 h
    intro hr
    have hr : s.device = .restarting := by
      rw [← hr]; simpa using (congrArg State.device (commit_outside (s := s) d b)).symm
    refine (forall_dom d).2 ⟨(congrArg Domain.timer (commit_uncounted d b) :).trans ?_,
      by rw [commit_dom_otherDom]; exact hs hr _⟩
    dsimp only [Domain.uncounted, State.timerAfter]
    rw [hs hr, ite_self]
  · obtain ⟨w, -, -, -, -, rfl⟩ := tryRelease_eq_some.1 h; exact hs.congr rfl
  · obtain ⟨e, r, -, -, -, -, -, rfl⟩ := tryBegin_eq_some.1 h; exact hs.congr rfl
  · obtain ⟨-, -, -, rfl⟩ := tryRestart_eq_some.1 h
    refine timersStopped_of_running ?_
    rw [completeRestart_eq]
    rcases releaseRestart_cases s.restartEnded with ⟨w, -, -, e⟩ | ⟨-, e⟩ <;> rw [e] <;> rfl
  · obtain ⟨w, m, -, -, -, -, -, rfl⟩ := tryGrant_eq_some.1 h; exact hs.congr rfl

theorem State.TimersStopped.settleHolding (h : Hold) (hs : s.TimersStopped) : (s.settleHolding h).TimersStopped :=
  settleHolding_induct (fun _ _ hs ha => hs.instant (instant_of_advance ha)) hs

theorem State.TimersStopped.settle (hs : s.TimersStopped) : s.settle.TimersStopped := hs.settleHolding _

/-! ### Limits -/

theorem State.TimersStopped.expireTimer (d : Dom) (hs : s.TimersStopped) : (s.expireTimer d).TimersStopped := by
  unfold State.expireTimer
  split
  · exact hs
  · next n hn =>
    refine timersStopped_of_running ?_
    have hd : (s.updDom d fun x => { x with timer := some x.params.period.toNat }).device = s.device := by simp
    refine ((clock_eq_iff.1 (request_clock d .timer)).1.trans hd).trans ?_
    cases hv : s.device
    · rfl
    · have := hs hv d
      simp [hn] at this

theorem expireGroupHold_timer (x : Domain) : x.expireGroupHold.timer = x.timer := by
  unfold Domain.expireGroupHold; split <;> rfl

theorem expireSampleHold_timer (x : Domain) : x.expireSampleHold.timer = x.timer := by
  unfold Domain.expireSampleHold; split <;> rfl

theorem State.TimersStopped.domExpiries (d : Dom) (hs : s.TimersStopped) : (s.domExpiries d).TimersStopped := by
  have h1 : ∀ {u : State}, u.TimersStopped → (u.endTimer d).TimersStopped := by
    intro u hu; unfold State.endTimer; split
    · exact hu.expireTimer d
    · exact hu
  have h2 : ∀ {u : State}, u.TimersStopped → (u.endGroupHold d).TimersStopped := by
    intro u hu; unfold State.endGroupHold; split
    · exact hu.congr (updDom_clock d expireGroupHold_timer)
    · exact hu
  have h3 : ∀ {u : State}, u.TimersStopped → (u.endSampleHold d).TimersStopped := by
    intro u hu; unfold State.endSampleHold; split
    · exact hu.congr (updDom_clock d expireSampleHold_timer)
    · exact hu
  exact (h3 (h2 (h1 hs).settle).settle).settle

theorem expireHeld_clock (w : HeldWrite) : (s.expireHeld w).clock = s.clock := by
  unfold State.expireHeld
  generalize w.dom = d
  cases d <;> rfl

theorem State.TimersStopped.endTick (hs : s.TimersStopped) : s.endTick.TimersStopped := by
  have ht : ∀ {u : State}, u.TimersStopped → u.tickLimits.TimersStopped := by
    intro u hu hr d
    have := hu hr d
    cases d <;> simp_all [State.tickLimits, Domain.tickLimits, tickLeft]
  have hw : ∀ {u : State}, u.TimersStopped → u.endWriteHold.TimersStopped := by
    intro u hu; unfold State.endWriteHold; split
    · split
      · exact hu.congr (expireHeld_clock _)
      · exact hu
    · exact hu
  have h0 : ({ s with time := { tick := s.time.tick + 1, clk := 0, tickLen := s.tickDiv } } : State).TimersStopped :=
    hs.congr rfl
  exact ((hw (ht h0)).settle.domExpiries .d0).domExpiries .d1

theorem State.TimersStopped.clkPeriod (hs : s.TimersStopped) : s.clkPeriod.TimersStopped := by
  unfold State.clkPeriod
  split
  · exact hs
  · have he : ∀ {u : State}, u.TimersStopped → u.edgeOfMp.TimersStopped := by
      intro u hu; unfold State.edgeOfMp; split
      · split
        · exact hu.congr withdraw_clock
        · exact hu
      · exact hu
    have h1 : s.endAnswers.TimersStopped := hs.congr rfl
    have h2 : s.endAnswers.settle.endCancel.TimersStopped := h1.settle.congr rfl
    have h3 := (he h2).settle
    dsimp only
    split
    · exact h3.congr rfl
    · exact h3.endTick
end Sys2Proof.Machine
end

section
/-! SUPPORT. The epoch timers of a RESTARTING device: commands start none (R127, R154), and the order of states. -/

namespace Sys2Proof.Machine

variable {s t : State}

/-! ### Frames -/

theorem State.TimersStopped.takeFrame {judge : State → State} (hs : s.TimersStopped) (hj : (judge s).TimersStopped) :
    (s.takeFrame judge).TimersStopped := by
  unfold State.takeFrame
  split
  · exact hs
  · split
    · exact hj
    · exact hs.congr rfl

/-- A command is executed on a RUNNING device, but for those that change nothing; what its body leaves on a RUNNING device decides. -/
theorem State.TimersStopped.linkCommand {c : Command} {arg : Byte} {data : Word} {tag : Byte} {body : State → State × Reply}
    (hs : s.TimersStopped) (hb : ∀ u : State, u.TimersStopped → u.device = .running ∨ c.always = true →
      (body u).1.TimersStopped) :
    (s.linkCommand c arg data tag body).TimersStopped := by
  refine hs.takeFrame ?_
  have hf : (s.shiftFrame (commandFrame c.code arg data tag)).TimersStopped := hs.congr rfl
  dsimp only
  split
  · exact hf.congr rfl
  · next hg =>
    refine (hb _ hf ?_).congr rfl
    unfold State.gate at hg
    split at hg
    · next hd => simpa using hd
    · split at hg <;> cases hg

/-- A body that leaves the device state leaves no timer running on a RESTARTING device: a RUNNING one executes it. -/
theorem State.TimersStopped.acting {c : Command} {arg : Byte} {data : Word} {tag : Byte} {body : State → State × Reply}
    (hs : s.TimersStopped) (hc : c.always = false) (hb : ∀ u : State, (body u).1.device = u.device) :
    (s.linkCommand c arg data tag body).TimersStopped :=
  hs.linkCommand fun u _ hg => timersStopped_of_running ((hb u).trans (by simpa [hc] using hg))

theorem State.TimersStopped.reading {c : Command} {arg : Byte} {data : Word} {tag : Byte} {reply : State → Reply}
    (hs : s.TimersStopped) : (s.linkCommand c arg data tag (reading reply)).TimersStopped :=
  hs.linkCommand fun _ hu _ => hu

theorem store_device (p : Param) (v : Word) : (s.store p v).device = s.device := by
  cases p with
  | setting d q => exact updDom_device ..
  | _ => rfl

theorem writeParamBody_device (n : Byte) (v : Word) : (writeParamBody n v s).1.device = s.device := by
  unfold writeParamBody
  split
  · unfold State.writeParam
    dsimp only
    split
    · exact store_device ..
    · rfl
  · rfl

theorem ackEventBody_device (arg : Byte) (data : Word) : (ackEventBody arg data s).1.device = s.device := by
  unfold ackEventBody
  split
  · rfl
  · dsimp only
    split
    · rfl
    · split <;> rfl

theorem clearCountersBody_device (arg : Byte) : (clearCountersBody arg s).1.device = s.device := by
  unfold clearCountersBody
  split <;> rfl

theorem onDomain_device (arg : Byte) {body : Dom → State → State × Reply} (hb : ∀ d, (body d s).1.device = s.device) :
    (onDomain arg body s).1.device = s.device := by
  unfold onDomain
  split
  · exact hb _
  · rfl

theorem startDomain_device (d : Dom) : (startDomain d s).1.device = s.device := by
  unfold startDomain
  split
  · rfl
  · split
    · rfl
    · exact updDom_device ..

theorem request_device (d : Dom) (c : Cause) : (s.request d c).device = s.device :=
  (clock_eq_iff.1 (request_clock d c)).1

theorem stopDomain_device (d : Dom) : (stopDomain d s).1.device = s.device := by
  unfold stopDomain
  split
  · exact (request_device d .stop).trans (updDom_device ..)
  · rfl

theorem closeDomain_device (d : Dom) : (closeDomain d s).1.device = s.device := by
  unfold closeDomain
  split
  · exact request_device d .link
  · rfl

theorem discardDomain_device (d : Dom) : (discardDomain d s).1.device = s.device := by
  unfold discardDomain
  split
  · cases d <;> rfl
  · rfl

theorem acceptRestart_timersStopped : s.acceptRestart.TimersStopped := fun _ d =>
  (congrArg Domain.timer (acceptRestart_uncounted d) :)

theorem State.TimersStopped.settleForFrame (arg : Byte) (c : Cause) (hs : s.TimersStopped) :
    (s.settleForFrame arg c).TimersStopped := by
  unfold State.settleForFrame
  split <;> exact hs.settleHolding _

theorem State.TimersStopped.executeFrame {code arg : Byte} {data : Word} {tag : Byte} (hs : s.TimersStopped)
    (he : executeFrame code arg data tag s = .next t) : t.TimersStopped := by
  unfold Machine.executeFrame at he
  split at he <;> cases he
  · exact hs.settle.takeFrame (hs.settle.congr rfl)
  · exact hs.settle.reading
  · exact hs.settle.reading
  · exact hs.settle.reading
  · exact hs.settle.reading
  · exact hs.settle.reading
  · exact hs.settle.reading
  · exact hs.settle.reading
  · exact hs.settle.acting rfl fun _ => writeParamBody_device _ _
  · exact hs.settle.acting rfl fun _ => ackEventBody_device _ _
  · exact hs.settle.acting rfl fun _ => clearCountersBody_device _
  · exact hs.settle.acting rfl fun _ => onDomain_device _ startDomain_device
  · exact (hs.settleForFrame _ _).acting rfl fun _ => onDomain_device _ stopDomain_device
  · exact (hs.settleForFrame _ _).acting rfl fun _ => onDomain_device _ closeDomain_device
  · exact hs.settle.acting rfl fun _ => onDomain_device _ discardDomain_device
  · exact hs.settle.linkCommand fun _ _ _ => acceptRestart_timersStopped

theorem failCheck_clock (f : Frame) : (s.failCheck f).clock = s.clock := by
  simp [State.clock, State.failCheck]

theorem tearFrame_clock (bits : List Bool) : (s.tearFrame bits).clock = s.clock := by
  simp [State.clock, State.tearFrame]

theorem State.TimersStopped.frameCheckFail {f : Frame} (hs : s.TimersStopped) (he : execFrameCheckFail f s = .next t) :
    t.TimersStopped := by
  unfold execFrameCheckFail at he
  split at he
  · exact hs.executeFrame he
  · cases he
    exact hs.settle.takeFrame (hs.settle.congr (failCheck_clock f))

/-! ### Commands -/

theorem State.TimersStopped.settleForWrite (a : Addr) (be : Lanes) (hs : s.TimersStopped) :
    (s.settleForWrite a be).TimersStopped := by
  unfold State.settleForWrite
  split
  · exact hs.settleHolding _
  · dsimp only
    split <;> exact hs.settleHolding _

theorem startWpRead_clock (r : ReadRecord) (m : Request) : (s.startWpRead r m).clock = s.clock := by
  unfold State.startWpRead; split <;> rfl

theorem startCpRead_clock (r : ReadRecord) (m : Request) : (s.startCpRead r m).clock = s.clock := by
  unfold State.startCpRead; split <;> rfl

/-- An instant taken as a command. -/
theorem State.TimersStopped.own {o : Option State} (hs : s.TimersStopped) (ho : ∀ u, o = some u → s.instant u) :
    (o.getD s).TimersStopped := by
  cases o with
  | none => exact hs
  | some u => exact hs.instant (ho u rfl)

/-- Every command leaves the timers of a RESTARTING device stopped (R127). -/
theorem State.TimersStopped.exec {i : Instr} (hs : s.TimersStopped) (he : exec i s = .next t) : t.TimersStopped := by
  have hq := hs.settle
  unfold Machine.exec at he
  split at he
  case h_23 => -- TORN_FRAME
    unfold execTornFrame at he
    split at he
    · exact hs.frameCheckFail he
    · cases he
      exact hq.takeFrame (hq.congr (tearFrame_clock _))
  case h_24 => exact hs.frameCheckFail he
  case h_25 => exact hs.executeFrame he
  all_goals cases he
  · split
    · exact hq
    · dsimp only
      split
      · next d hd => exact (hs.settleForWrite _ _).congr (windowWrite_clock _ _ hd)
      · exact (hs.settleForWrite _ _).congr rfl
  · split
    · exact hq
    · dsimp only
      split <;> exact (hs.settleHolding _).congr (startWpRead_clock ..)
  · split
    · exact hq
    · dsimp only
      split <;> exact (hs.settleHolding _).congr (startCpRead_clock ..)
  · split
    · exact hq
    · dsimp only
      split
      · next d _ => exact (hs.settleHolding _).congr (by cases d <;> rfl)
      · exact (hs.settleHolding _).congr rfl
  · exact hs.own fun u hu => .inr (.inr (.inr (.inr (.inr (.inr hu)))))
  · split
    · exact hq
    · split
      · exact hq
      · exact hq.congr (deliver_clock ..)
  · split
    · exact (hq.congr withdraw_clock).settle
    · exact hq
  · split
    · exact (hs.settleHolding _).expireTimer _
    · exact hs
  · next d =>
    have hl : (s.settleForRequest d .line).TimersStopped := hs.settleHolding _
    split
    · refine hl.congr ?_
      unfold State.lineEdge
      dsimp only
      split
      · exact (request_clock _ _).trans (updDom_clock _ fun _ => rfl)
      · exact updDom_clock _ fun _ => rfl
    · exact hl
  · split
    · exact hq.congr (updDom_clock _ fun _ => rfl)
    · exact hq
  · split
    · exact hq.congr (updDom_clock _ expireGroupHold_timer)
    · exact hq
  · split
    · exact hq.congr (updDom_clock _ expireSampleHold_timer)
    · exact hq
  · split
    · unfold State.expireWriteHold
      split
      · exact hq
      · exact hq.congr (expireHeld_clock _)
    · exact hq
  · exact hs.own fun u hu => .inr (.inr (.inl ⟨_, hu⟩))
  · exact hs.own fun u hu => .inl hu
  · exact hs.own fun u hu => .inr (.inr (.inr (.inl hu)))
  · exact hs.own fun u hu => .inr (.inr (.inr (.inr (.inl hu))))
  · exact hs.own fun u hu => .inr (.inl hu)
  · exact hs.own fun u hu => .inr (.inr (.inr (.inr (.inr (.inl hu)))))
  · split
    · exact timersStopped_of_running rfl
    · exact hq
  · split
    · exact hs
    · exact timersStopped_of_running rfl
  · exact timersStopped_of_running rfl
  · exact hq.reading
  · exact hq.reading
  · exact hq.acting rfl fun _ => writeParamBody_device _ _
  · exact hq.acting rfl fun _ => writeParamBody_device _ _
  · exact hq.acting rfl fun _ => writeParamBody_device _ _
  · exact hq.reading
  · exact hq.reading
  · exact hq.acting rfl fun _ => ackEventBody_device _ _
  · exact hq.reading
  · exact hq.acting rfl fun _ => clearCountersBody_device _
  · exact hq.reading
  · exact hq.reading
  · exact hq.acting rfl fun _ => onDomain_device _ startDomain_device
  · exact (hs.settleForFrame _ _).acting rfl fun _ => onDomain_device _ stopDomain_device
  · exact (hs.settleForFrame _ _).acting rfl fun _ => onDomain_device _ closeDomain_device
  · exact hq.acting rfl fun _ => onDomain_device _ discardDomain_device
  · exact hq.linkCommand fun _ _ _ => acceptRestart_timersStopped
  · split
    · exact hq.congr (updDom_clock _ fun _ => rfl)
    · exact hq

theorem State.TimersStopped.set_pending (hs : s.TimersStopped) (l : List Instr) :
    ({ s with pending := l } : State).TimersStopped := hs.congr rfl

theorem State.TimersStopped.step (hs : s.TimersStopped) (he : step s = .next t) : t.TimersStopped := by
  unfold Machine.step at he
  split at he
  · exact (hs.set_pending _).exec he
  · cases he
    exact hs.clkPeriod

/-- Settles O55: the order of states but for the timers of a RESTARTING device is kept by every move of the part; those timers stay
stopped because a RESTARTING device executes no command that starts one (R154). -/
theorem statesStayInOrder : Obligations.StatesStayInOrder := by
  unfold Obligations.StatesStayInOrder
  intro s t hs he
  obtain ⟨hagree, htimers⟩ := statesInOrder_iff.1 hs
  exact statesInOrder_iff.2 ⟨keptByMoves_statesAgree.step hagree he, htimers.step he⟩
end Sys2Proof.Machine
end

section
/-! SUPPORT. The starvation guard bounds the wait counts (R106, R107). -/

namespace Sys2Proof.Machine

variable {s t : State}

/-! ### What the order of the wait counts reads -/

/-- The requests presented and the wait counts. -/
def Arbiter.waits (a : Arbiter) : Bool × Bool × Bool × Nat × Nat × Nat :=
  (a.cpReq.isNone, a.drainReq.isNone, a.wpReq.isNone, a.cpWait, a.drainWait, a.wpWait)

theorem State.WaitsInOrder.congr (h : s.WaitsInOrder) (e : t.arb.waits = s.arb.waits) : t.WaitsInOrder := by
  simp only [Arbiter.waits, Prod.mk.injEq] at e
  obtain ⟨e1, e2, e3, e4, e5, e6⟩ := e
  have hnone : ∀ {p q : Option Request}, p.isNone = q.isNone → (p = none ↔ q = none) := fun k => by
    simp only [← Option.isNone_iff_eq_none, k]
  obtain ⟨h1, h2, h3, h4, h5, h6, h7, h8, h9⟩ := h
  constructor <;> simpa only [hnone e1, hnone e2, hnone e3, e4, e5, e6]

theorem State.WaitsInOrder.of_arb (h : s.WaitsInOrder) (e : t.arb = s.arb) : t.WaitsInOrder :=
  h.congr (congrArg Arbiter.waits e)

/-- A request presented by the writer port waits from the count it has. -/
theorem State.WaitsInOrder.presentWp (r : Request) (h : s.WaitsInOrder) : (s.presentWp r).WaitsInOrder :=
  { h with wpAbsent := fun e => by cases e }

theorem State.WaitsInOrder.presentCp (r : Request) (h : s.WaitsInOrder) : (s.presentCp r).WaitsInOrder :=
  { h with cpAbsent := fun e => by cases e }

/-- A drain write presented waits from 0. -/
theorem waitsInOrder_of_drain {m : Option Request} (h : s.WaitsInOrder)
    (e : t.arb.waits = ({ s.arb with drainReq := m, drainWait := 0 } : Arbiter).waits) : t.WaitsInOrder := by
  refine State.WaitsInOrder.congr (s := { s with arb := { s.arb with drainReq := m, drainWait := 0 } }) ?_ e
  exact
    { h with
      drainBound := Nat.zero_le _
      drainPassed := fun k => by cases k
      wpPassedOnce := fun _ => .inr rfl
      wpPassedTwice := fun k => ⟨(h.wpPassedTwice k).1, Nat.zero_le _⟩
      drainAbsent := fun _ => rfl }

theorem State.WaitsInOrder.retire (lost : Bool) (h : s.WaitsInOrder) : (s.retire lost).WaitsInOrder := by
  match hq : s.queue with
  | [] => rw [retire_of_nil lost (.inl hq)]; exact h
  | e :: rest =>
    match hb : (s.dom e.dom).drainBank with
    | [] => rw [retire_of_nil lost (.inr ⟨e, rest, hq, hb⟩)]; exact h
    | first :: bank =>
      have harb : (s.retire lost).arb = { s.arb with drainReq := bank.head?.map Entry.drainWrite, drainWait := 0 } := by
        simpa using congrArg State.arb (retire_outside lost hq hb)
      exact waitsInOrder_of_drain h (congrArg Arbiter.waits harb)

theorem request_arb (d : Dom) (c : Cause) : (s.request d c).arb = s.arb := by
  rcases request_cases s d c with e | ⟨-, ⟨-, -, -, e⟩ | ⟨-, e⟩ | ⟨b, -, e⟩ | ⟨b, g, l, -, e⟩⟩ <;> rw [e] <;>
    simp [State.noteMerge]

theorem store_arb (p : Param) (v : Word) : (s.store p v).arb = s.arb := by
  cases p with
  | setting d q => exact updDom_arb ..
  | _ => rfl

theorem countError_arb (err : Bool) : (s.countError err).arb = s.arb := by cases err <;> rfl

theorem finishCpRead_arb (err : Bool) (mem : Word) : (s.finishCpRead err mem).arb = s.arb := by
  unfold State.finishCpRead State.clearFence
  dsimp only
  split
  · split <;> rfl
  · rfl

theorem State.WaitsInOrder.deliver (o : Outstanding) (err : Bool) (mem : Word) (h : s.WaitsInOrder) :
    (s.deliver o err mem).WaitsInOrder := by
  unfold State.deliver
  split
  · exact h.retire err
  · refine h.of_arb ((countError_arb err).trans ?_)
    split
    · rfl
    · exact finishCpRead_arb err mem
  · refine h.of_arb ((countError_arb err).trans ?_)
    split <;> rfl

/-! ### The grant (R109) -/

/-- A grant sends the winner's count to 0, and every other requester whose request is presented counts it. -/
theorem waitAfter_eq (a : Arbiter) (w r : Requester) :
    a.waitAfter w r = if r = w then 0 else a.wait r + one (a.request r).isSome := by
  unfold Arbiter.waitAfter
  split
  · rfl
  · cases (a.request r).isSome <;> simp [one]

theorem one_isSome_eq_zero {m : Option Request} : one m.isSome = 0 ↔ m = none := by cases m <;> simp [one]

theorem one_isSome_eq_one {m : Option Request} : one m.isSome = 1 ↔ m.isSome = true := by cases m <;> simp [one]

theorem one_isSome_le (m : Option Request) : one m.isSome ≤ 1 := by cases m <;> simp [one]

/-- A requester that stands before the winner and is passed over was not guarded. -/
theorem not_guarded_of_choose {a : Arbiter} {w r : Requester} (hc : a.choose = some w) (hr : r.rank < w.rank) :
    one (a.request r).isSome = 1 → a.wait r < 8 := by
  intro hs
  rw [one_isSome_eq_one] at hs
  have hn : ¬a.guarded r := by
    rcases (choose_eq_some.1 hc).1 with ⟨-, h⟩ | ⟨h, -⟩
    · exact h r hr
    · exact h r
  by_contra h8
  exact hn ⟨hs, by omega⟩

/-- A guarded requester that is passed over gives way to a guarded winner. -/
theorem guarded_of_choose {a : Arbiter} {w r : Requester} (hc : a.choose = some w) :
    one (a.request r).isSome = 1 → 8 ≤ a.wait r → 8 ≤ a.wait w := by
  intro hs h8
  rw [one_isSome_eq_one] at hs
  rcases (choose_eq_some.1 hc).1 with ⟨h, -⟩ | ⟨h, -⟩
  · exact h.2
  · exact absurd ⟨hs, h8⟩ (h r)

theorem State.WaitsInOrder.grant {w : Requester} {r : Request} (n : Nat) (h : s.WaitsInOrder) (hc : s.arb.choose = some w) :
    ({ s with arb := s.arb.grant w r n } : State).WaitsInOrder := by
  have hbefore := fun r => not_guarded_of_choose (r := r) hc
  have hguard := fun r => guarded_of_choose (r := r) hc
  obtain ⟨hcp, hdr, hwp, hpass, honce, htwice, hcp0, hdr0, hwp0⟩ := h
  rw [← one_isSome_eq_zero] at hcp0 hdr0 hwp0
  have hc1 := one_isSome_le s.arb.cpReq
  have hd1 := one_isSome_le s.arb.drainReq
  have hw1 := one_isSome_le s.arb.wpReq
  cases w
  case cp =>
    have hd2 := hguard .drain
    have hw2 := hguard .wp
    constructor <;>
      simp only [Arbiter.grant, waitAfter_eq, Arbiter.request, Arbiter.wait, reduceCtorEq, if_true, if_false,
        ← one_isSome_eq_zero, implies_true, true_or] at * <;>
      omega
  case drain =>
    have hc2 := hbefore .cp (by decide)
    have hw2 := hguard .wp
    constructor <;>
      simp only [Arbiter.grant, waitAfter_eq, Arbiter.request, Arbiter.wait, reduceCtorEq, if_true, if_false,
        ← one_isSome_eq_zero, implies_true, or_true, and_true, zero_le, false_imp_iff] at * <;>
      omega
  case wp =>
    have hc2 := hbefore .cp (by decide)
    have hd2 := hbefore .drain (by decide)
    constructor <;>
      simp only [Arbiter.grant, waitAfter_eq, Arbiter.request, Arbiter.wait, reduceCtorEq, if_true, if_false,
        ← one_isSome_eq_zero, implies_true, false_imp_iff] at * <;>
      omega

/-! ### Every move -/

theorem waitsInOrder_of_reset (h : t.arb.waits = Arbiter.reset.waits) : t.WaitsInOrder := by
  refine State.WaitsInOrder.congr (s := State.reset) ?_ h
  constructor <;> decide

theorem releaseHeld_waits {h : HeldWrite} (hs : s.WaitsInOrder) : (s.releaseHeld h).WaitsInOrder :=
  State.WaitsInOrder.presentWp (s := { s with held := none }) _ (hs.of_arb rfl)

theorem windowWrite_arb {d : Dom} {a : Addr} (be : Lanes) (data : Word) (hc : s.classify a = some d) :
    (s.acceptWp.windowWrite d a be data).arb = s.arb := by
  rcases windowWrite_cases be data hc with ⟨-, e⟩ | ⟨-, ⟨-, e⟩ | ⟨-, e⟩ | ⟨-, e | ⟨-, ⟨-, e⟩ | e | e | e⟩⟩⟩ <;> rw [e]
  · rfl
  · simp [State.hold]
  · simp [State.hold]
  · simp [State.coalesceEntry]
  · simp [State.appendEntry]
  · simp [State.hold]
  · rw [request_arb]; simp [State.hold]
  · simp

/-- Every move keeps the order of the wait counts. -/
theorem keptByMoves_waitsInOrder : KeptByMoves State.WaitsInOrder where
  pending _ h := h.of_arb rfl
  link _ h := h.of_arb rfl
  time _ h := h.of_arb rfl
  place h _ _ _ _ := h.of_arb (by simp [State.placeHeld, State.appendEntry])
  drainEnd h _ _ _ _ := h.of_arb (by simpa using congrArg State.arb (endDrain_outside _ _))
  commit h _ _ _ := h.of_arb (by simpa using congrArg State.arb (commit_outside _ _))
  release h _ _ _ _ := releaseHeld_waits h
  begin h _ _ _ _ _ := waitsInOrder_of_drain h rfl
  restartDone {s} h _ _ _ := by
    have he : s.restartEnded.WaitsInOrder := h.of_arb rfl
    rw [completeRestart_eq]
    rcases releaseRestart_cases s.restartEnded with ⟨w, -, -, e⟩ | ⟨-, e⟩ <;> rw [e]
    · exact releaseHeld_waits he
    · exact he
  grant h _ _ _ hc _ := h.grant _ hc
  deliver _ err mem h _ _ _ := State.WaitsInOrder.deliver _ err mem (h.congr rfl)
  cancelEnds {s} h _ := h.congr (by unfold State.endCancel Arbiter.endCancel; dsimp only; split <;> rfl)
  answersEnd h _ := h.of_arb rfl
  windowWrite be data h _ hc := h.of_arb (windowWrite_arb be data hc)
  writerWritesThrough _ _ _ h _ := (h.of_arb rfl : State.WaitsInOrder (State.acceptWp _)).presentWp _
  writerReads d a h _ := by
    unfold State.startWpRead
    split
    · exact h.of_arb rfl
    · exact State.WaitsInOrder.presentWp _ (h.of_arb rfl)
  writerReadsThrough a be data h _ := by
    unfold State.startWpRead
    split
    · exact h.of_arb rfl
    · exact State.WaitsInOrder.presentWp _ (h.of_arb rfl)
  consumerReads d a h _ := by
    unfold State.startCpRead
    split
    · exact h.of_arb rfl
    · exact State.WaitsInOrder.presentCp _ (h.of_arb rfl)
  consumerReadsThrough a be data h _ := by
    unfold State.startCpRead
    split
    · exact h.of_arb rfl
    · exact State.WaitsInOrder.presentCp _ (h.of_arb rfl)
  consumerWritesThrough _ _ _ h _ := State.WaitsInOrder.presentCp _ (h.of_arb rfl)
  consumerRefused d h _ := h.of_arb (by simp [State.refuseCpWrite])
  timer d h _ _ := h.of_arb (updDom_arb ..)
  request d c h _ _ := h.of_arb (request_arb d c)
  groupHold d h _ := h.of_arb (updDom_arb ..)
  sampleHold d h _ := h.of_arb (updDom_arb ..)
  writeHold h _ _ := h.of_arb (by simp [State.expireHeld])
  epochIn d v h _ := h.of_arb (updDom_arb ..)
  sampleN d v h _ := h.of_arb (updDom_arb ..)
  tick h _ := h.congr rfl
  assertReset _ _ := waitsInOrder_of_reset rfl
  released _ _ _ := waitsInOrder_of_reset rfl
  powerUp _ _ _ := waitsInOrder_of_reset rfl
  bumpDev _ h := h.of_arb rfl
  linkError h := h.of_arb rfl
  store {s p v} h _ _ _ := h.of_arb (store_arb p v)
  clearPending _ h := h.of_arb rfl
  clearDom d h := h.of_arb (updDom_arb ..)
  clearDev h := h.of_arb rfl
  start h _ _ _ _ := h.of_arb (updDom_arb ..)
  stop h _ _ _ := h.of_arb ((request_arb _ _).trans (updDom_arb ..))
  discard h _ _ _ := h.of_arb (by simp [State.discardOpen, State.freeOpenBank])
  restart h _ _ := h.of_arb rfl

/-- Settles O58: the counts change at a grant, whose choice bounds them (R108, R109), and where a request is presented. -/
theorem waitCountsStayBounded : Obligations.WaitCountsStayBounded := by
  unfold Obligations.WaitCountsStayBounded
  intro s t hs he
  exact keptByMoves_waitsInOrder.step hs he
end Sys2Proof.Machine
end

section
/-! SUPPORT. Parameters: what a write reads back, what it leaves, and the ranges that every step keeps (R143, R144, Table 5.2). -/

namespace Sys2Proof.Machine

variable {s t : State}

/-! ### The numbers of the parameters (Table 11.1) -/

theorem ofNum_num (p : Param) : Param.ofNum? p.num = some p := by
  cases p with
  | setting d q => cases d <;> cases q <;> rfl
  | winBase w => revert w; decide
  | winCtrl w => revert w; decide
  | grp g => revert g; decide
  | _ => rfl

theorem ofNum_all : ∀ n : Byte, (Param.ofNum? n).all (fun p => decide (p.num = n)) = true := by decide

theorem num_of_ofNum {n : Byte} {p : Param} (h : Param.ofNum? n = some p) : p.num = n := by
  simpa [h] using ofNum_all n

/-! ### The packed values -/

/-- A word of small value is what its low bits say. -/
theorem setWidth_setWidth_of_lt {v : Word} {w : Nat} (h : v.toNat < 2 ^ w) : (v.setWidth w).setWidth 32 = v := by
  apply BitVec.eq_of_toNat_eq
  have := v.isLt
  rw [BitVec.toNat_setWidth, BitVec.toNat_setWidth, Nat.mod_eq_of_lt h, Nat.mod_eq_of_lt this]

/-- The bits from `w` up are clear exactly in the words below `2 ^ w`. -/
theorem toNat_lt_of_extractLsb' {v : Word} {w n : Nat} (hn : w + n = 32) (h : v.extractLsb' w n = 0) : v.toNat < 2 ^ w := by
  have hv := v.isLt
  have hz : v.toNat / 2 ^ w % 2 ^ n = 0 := by
    simpa [BitVec.extractLsb'_toNat, Nat.shiftRight_eq_div_pow] using congrArg BitVec.toNat h
  have hd : v.toNat / 2 ^ w < 2 ^ n := by
    rw [Nat.div_lt_iff_lt_mul (by positivity), ← pow_add, Nat.add_comm, hn]
    exact hv
  rw [Nat.mod_eq_of_lt hd] at hz
  exact (Nat.div_eq_zero_iff_lt (by positivity)).1 hz

/-- A word with no bit outside a mask has clear bits wherever the mask has. -/
theorem getLsbD_of_masked {v m : Word} (h : v &&& ~~~m = 0) {i : Nat} (hi : i < 32) (hm : m.getLsbD i = false) :
    v.getLsbD i = false := by
  have hbit : v[i] = true → m[i] = true := by simpa [hi] using congrArg (fun k : Word => k.getLsbD i) h
  rw [BitVec.getLsbD_eq_getElem hi] at hm ⊢
  simpa [hm] using hbit

theorem domBit_domOfBit (b : Bool) : domBit (domOfBit b) = b := by cases b <;> rfl

/-- A WIN_CTRL value in range is what its fields say (Table 10.9). -/
theorem pack_setCtrl {v : Word} (w : Window) (h : v &&& ~~~0x1F3 = 0) : (w.setCtrl v).pack = v := by
  apply BitVec.eq_of_getLsbD_eq
  intro i hi
  have hz : (0x1F3 : Word).getLsbD i = false → v.getLsbD i = false := getLsbD_of_masked h hi
  simp only [Window.pack, Window.setCtrl, ctrlDom, domBit_domOfBit, ctrlSize, BitVec.getLsbD_append, BitVec.getLsbD_ofBool,
    BitVec.getLsbD_extractLsb', BitVec.getLsbD_zero]
  interval_cases i <;> simp_all

/-- A GRP value in range is what its fields say (Table 10.9). -/
theorem pack_unpack {v : Word} (h : v &&& ~~~0x1FFFFF71 = 0) : (Group.unpack v).pack = v := by
  apply BitVec.eq_of_getLsbD_eq
  intro i hi
  have hz : (0x1FFFFF71 : Word).getLsbD i = false → v.getLsbD i = false := getLsbD_of_masked h hi
  have hw : BitVec.ofNat 3 (grpWindow v) = v.extractLsb' 4 3 := by
    apply BitVec.eq_of_toNat_eq
    have := (v.extractLsb' 4 3).isLt
    simp only [grpWindow, Fin.ofNat, BitVec.toNat_ofNat]
    omega
  simp only [Group.pack, Group.unpack, hw, grpLength, BitVec.getLsbD_append, BitVec.getLsbD_ofBool,
    BitVec.getLsbD_extractLsb', BitVec.getLsbD_zero]
  interval_cases i <;> simp_all

theorem value_ofValue {v : Word} (h : v.toNat ≤ 2) : (FullPolicy.ofValue v).value = v := by
  have h3 : v = 0 ∨ v = 1 ∨ v = 2 := by
    rcases (by omega : v.toNat = 0 ∨ v.toNat = 1 ∨ v.toNat = 2) with k | k | k
    · exact .inl (BitVec.eq_of_toNat_eq k)
    · exact .inr (.inl (BitVec.eq_of_toNat_eq k))
    · exact .inr (.inr (BitVec.eq_of_toNat_eq k))
  rcases h3 with rfl | rfl | rfl <;> rfl

theorem flagValue_getLsbD {v : Word} (h : v.toNat ≤ 1) : flagValue (v.getLsbD 0) = v := by
  have h2 : v = 0 ∨ v = 1 := by
    rcases (by omega : v.toNat = 0 ∨ v.toNat = 1) with k | k
    · exact .inl (BitVec.eq_of_toNat_eq k)
    · exact .inr (BitVec.eq_of_toNat_eq k)
  rcases h2 with rfl | rfl <;> rfl

theorem inSpan_iff {lo hi : Nat} {v : Word} : inSpan lo hi v = true ↔ lo ≤ v.toNat ∧ v.toNat ≤ hi := by
  simp [inSpan]

/-! ### What a write stores -/

/-- A setting in range reads back as written. -/
theorem writeSetting_value (x : Domain) {q : Setting} {v : Word} (h : q.inRange v = true) :
    (x.writeSetting q v).params.value q = v := by
  cases q <;> simp only [Setting.inRange, inSpan_iff] at h <;>
    simp only [Domain.writeSetting, Domain.writeTimerRun, DomParams.value]
  case quota => exact setWidth_setWidth_of_lt (by omega)
  case policy => exact value_ofValue h.2
  case writeHold => exact setWidth_setWidth_of_lt (by omega)
  case period => exact setWidth_setWidth_of_lt (by omega)
  case timerRun => exact flagValue_getLsbD h.2
  case lineEn => exact flagValue_getLsbD h.2
  case groupHold => exact setWidth_setWidth_of_lt (by omega)
  case sampleHold => exact setWidth_setWidth_of_lt (by omega)

theorem writeSetting_value_other (x : Domain) {q r : Setting} (v : Word) (h : r ≠ q) :
    (x.writeSetting q v).params.value r = x.params.value r := by
  cases q <;> cases r <;> first | rfl | exact absurd rfl h

/-- A value in range reads back as written (R155, R165). -/
theorem store_param_same {p : Param} {v : Word} (h : p.inRange v = true) : (s.store p v).param p = v := by
  cases p <;> simp only [Param.inRange, inSpan_iff, Bool.and_eq_true, decide_eq_true_eq, Bool.false_eq_true] at h <;>
    simp only [State.store, State.param]
  case tickDiv => exact setWidth_setWidth_of_lt (by omega)
  case memTimeout => exact setWidth_setWidth_of_lt (by omega)
  case eventEnable => exact setWidth_setWidth_of_lt (toNat_lt_of_extractLsb' (by norm_num) h)
  case setting d q => rw [updDom_dom_same]; exact writeSetting_value _ h
  case winBase w => simpa using setWidth_setWidth_of_lt (toNat_lt_of_extractLsb' (by norm_num) h)
  case winCtrl w => simpa using pack_setCtrl _ h.1
  case grp g => simpa using pack_unpack h.1

theorem vector_set_other {α : Type} {n : Nat} (v : Vector α n) {i j : Fin n} (x : α) (h : j ≠ i) :
    (v.set i x)[j] = v[j] := by
  have : (i : Nat) ≠ j := fun k => h (Fin.ext k).symm
  simp [this]

/-- A write of one parameter leaves the value of every other. -/
theorem store_param_other {p r : Param} (v : Word) (h : r ≠ p) : (s.store p v).param r = s.param r := by
  cases p with
  | partId => rfl
  | revision => rfl
  | poolSize => rfl
  | tickDiv => cases r <;> first | rfl | exact absurd rfl h
  | memTimeout => cases r <;> first | rfl | exact absurd rfl h
  | eventEnable => cases r <;> first | rfl | exact absurd rfl h
  | setting d q =>
    cases r with
    | setting e k =>
      by_cases hd : e = d
      · subst hd
        simp only [State.store, State.param, updDom_dom_same]
        exact writeSetting_value_other _ v fun hk => h (hk ▸ rfl)
      · simp only [State.store, State.param, updDom_dom_other s hd]
    | _ => simp [State.store, State.param]
  | winBase w =>
    cases r with
    | winBase k =>
      have hk : k ≠ w := fun hk => h (hk ▸ rfl)
      simp only [State.store, State.param, vector_set_other _ _ hk]
    | winCtrl k =>
      by_cases hk : k = w
      · subst hk; simp [State.store, State.param, Window.pack]
      · simp only [State.store, State.param, vector_set_other _ _ hk]
    | setting e k => cases e <;> rfl
    | _ => rfl
  | winCtrl w =>
    cases r with
    | winBase k =>
      by_cases hk : k = w
      · subst hk; simp [State.store, State.param, Window.setCtrl]
      · simp only [State.store, State.param, vector_set_other _ _ hk]
    | winCtrl k =>
      have hk : k ≠ w := fun hk => h (hk ▸ rfl)
      simp only [State.store, State.param, vector_set_other _ _ hk]
    | setting e k => cases e <;> rfl
    | _ => rfl
  | grp g =>
    cases r with
    | grp k =>
      have hk : k ≠ g := fun hk => h (hk ▸ rfl)
      simp only [State.store, State.param, vector_set_other _ _ hk]
    | setting e k => cases e <;> rfl
    | _ => rfl

/-- A write of a parameter changes of a domain its parameters, and for TIMER_RUN_d its epoch timer (R27, R167). -/
theorem writeSetting_frame (x : Domain) (q : Setting) (v : Word) :
    ({ x.writeSetting q v with params := x.params, timer := x.timer } : Domain) = x ∧
      (q ≠ .timerRun → (x.writeSetting q v).timer = x.timer) := by
  cases q with
  | timerRun => exact ⟨rfl, fun h => absurd rfl h⟩
  | _ => exact ⟨rfl, fun _ => rfl⟩

theorem store_dom_setting (d e : Dom) (q : Setting) (v : Word) :
    (s.store (.setting d q) v).dom e = if e = d then (s.dom d).writeSetting q v else s.dom e := by
  by_cases h : e = d
  · subst h; rw [if_pos rfl]; exact updDom_dom_same ..
  · rw [if_neg h]; exact updDom_dom_other s h _

theorem store_dom_of_not_setting {p : Param} (v : Word) (h : ∀ d q, p ≠ .setting d q) (e : Dom) :
    (s.store p v).dom e = s.dom e := by
  cases p with
  | setting d q => exact absurd rfl (h d q)
  | _ => cases e <;> rfl

theorem store_dom_frame (p : Param) (v : Word) (e : Dom) :
    { (s.store p v).dom e with params := (s.dom e).params, timer := (s.dom e).timer } = s.dom e := by
  by_cases h : ∃ d q, p = .setting d q
  · obtain ⟨d, q, rfl⟩ := h
    rw [store_dom_setting]
    split
    · next he => subst he; exact (writeSetting_frame _ q v).1
    · rfl
  · rw [store_dom_of_not_setting v fun d q hp => h ⟨d, q, hp⟩]

theorem store_dom_timer {p : Param} (v : Word) {e : Dom} (hp : p ≠ .setting e .timerRun) :
    ((s.store p v).dom e).timer = (s.dom e).timer := by
  by_cases h : ∃ d q, p = .setting d q
  · obtain ⟨d, q, rfl⟩ := h
    rw [store_dom_setting]
    split
    · next he => subst he; exact (writeSetting_frame _ q v).2 fun hq => hp (hq ▸ rfl)
    · rfl
  · rw [store_dom_of_not_setting v fun d q hp => h ⟨d, q, hp⟩]

theorem store_frame (p : Param) (v : Word) :
    { s.store p v with
      dom0 := s.dom0, dom1 := s.dom1, windows := s.windows, groups := s.groups, tickDiv := s.tickDiv
      memTimeout := s.memTimeout, eventEnable := s.eventEnable } = s := by
  cases p with
  | setting d q => cases d <;> rfl
  | _ => rfl

/-- Settles O43: the numbers by the table; of a write, what it stores parameter by parameter, what it leaves, and its frame. -/
theorem parameterWritesReadBack : Obligations.ParameterWritesReadBack := by
  unfold Obligations.ParameterWritesReadBack
  refine ⟨ofNum_num, fun n p => num_of_ofNum, ?_⟩
  rintro s t p r v rfl
  exact ⟨store_param_same, store_param_other v, store_dom_frame p v, fun d hp => store_dom_timer v hp, store_frame p v⟩

/-! ### Parameters in their ranges (R165) -/

/-- What the values of the parameters are read from. -/
def State.settings (s : State) :=
  (s.tickDiv, s.memTimeout, s.eventEnable, s.windows, s.groups, s.dom0.params, s.dom1.params)

theorem param_of_settings (h : t.settings = s.settings) (p : Param) : t.param p = s.param p := by
  simp only [State.settings, Prod.mk.injEq] at h
  obtain ⟨h1, h2, h3, h4, h5, h6, h7⟩ := h
  cases p with
  | setting d q => cases d <;> simp only [State.param, dom_d0, dom_d1, h6, h7]
  | _ => simp only [State.param, h1, h2, h3, h4, h5]

theorem State.ParamsInOrder.congr (h : s.ParamsInOrder) (e : t.settings = s.settings) : t.ParamsInOrder := fun p hp => by
  rw [param_of_settings e]; exact h p hp

/-- What the part's own instants never change holds the parameters. -/
theorem State.ParamsInOrder.of_still (h : s.ParamsInOrder) (e : t.still = s.still) : t.ParamsInOrder := by
  refine h.congr ?_
  simp only [State.still, Still.mk.injEq] at e
  obtain ⟨-, e2, e3, e4, e5, e6, e7, e8, -⟩ := e
  simp only [State.settings, e2, e3, e4, e5, e6, e7, e8]

/-- The reset values are in range. -/
theorem paramsInOrder_of_reset (h : t.settings = State.reset.settings) : t.ParamsInOrder := by
  refine State.ParamsInOrder.congr (s := State.reset) (fun p hp => ?_) h
  cases p with
  | partId => cases hp
  | revision => cases hp
  | poolSize => cases hp
  | tickDiv => decide
  | memTimeout => decide
  | eventEnable => decide
  | setting d q => cases d <;> cases q <;> decide
  | winBase w => revert w; decide
  | winCtrl w => revert w; decide
  | grp g => revert g; decide

theorem State.ParamsInOrder.store {p : Param} {v : Word} (h : s.ParamsInOrder) (hv : p.inRange v = true) :
    (s.store p v).ParamsInOrder := fun r hr => by
  by_cases hp : r = p
  · subst hp; rwa [store_param_same hv]
  · rw [store_param_other v hp]; exact h r hr

theorem updDom_settings (d : Dom) {f : Domain → Domain} (h : ∀ x, (f x).params = x.params) :
    (s.updDom d f).settings = s.settings := by
  cases d <;> simp only [State.settings, State.updDom, State.setDom, State.dom, h]

theorem request_settings (d : Dom) (c : Cause) : (s.request d c).settings = s.settings := by
  have hm : ∀ u : State, (u.noteMerge d).settings = u.settings := fun u => by cases d <;> rfl
  rcases request_cases s d c with e | ⟨-, ⟨-, -, -, e⟩ | ⟨-, e⟩ | ⟨b, -, e⟩ | ⟨b, g, l, -, e⟩⟩ <;> rw [e]
  · exact updDom_settings d fun _ => rfl
  · exact updDom_settings d fun _ => rfl
  · rw [hm]; exact updDom_settings d fun _ => rfl
  · rw [hm]; exact updDom_settings d fun _ => rfl

theorem retire_still (lost : Bool) : (s.retire lost).still = s.still := by
  unfold State.retire
  split
  · rfl
  · split
    · rfl
    · rename_i e _ _ _ _ bank _
      have hu : ∀ u : State, (u.updDom e.dom fun x => { x with drainBank := bank }).still = u.still := fun u =>
        updDom_still e.dom (f := fun x => { x with drainBank := bank }) rfl
      dsimp only
      split
      · exact (presentDrain_still bank).trans ((raise_still _).trans ((bump_still e.dom _ _).trans (hu _)))
      · exact (presentDrain_still bank).trans (hu _)

theorem deliver_still (o : Outstanding) (err : Bool) (mem : Word) : (s.deliver o err mem).still = s.still := by
  have hc : ∀ u : State, (u.countError err).still = u.still := fun u => by cases err <;> rfl
  unfold State.deliver
  split
  · exact retire_still err
  · rw [hc]
    split
    · rfl
    · unfold State.finishCpRead State.clearFence
      dsimp only
      split
      · split <;> rfl
      · rfl
  · rw [hc]
    split <;> rfl

theorem windowWrite_settings {d : Dom} {a : Addr} (be : Lanes) (data : Word) (hc : s.classify a = some d) :
    (s.acceptWp.windowWrite d a be data).settings = s.settings := by
  have hh : ∀ r, (s.acceptWp.hold d r a be data).settings = s.settings := fun r => by cases d <;> rfl
  have hn : ∀ u : State, (u.noteWrite d a).settings = u.settings := by
    intro u; unfold State.noteWrite; split <;> rfl
  rcases windowWrite_cases be data hc with ⟨-, e⟩ | ⟨-, ⟨-, e⟩ | ⟨-, e⟩ | ⟨-, e | ⟨-, ⟨-, e⟩ | e | e | e⟩⟩⟩ <;> rw [e]
  · rfl
  · exact hh _
  · exact hh _
  · exact (hn _).trans (by cases d <;> rfl)
  · exact (hn _).trans (by cases d <;> rfl)
  · exact hh _
  · exact (request_settings d .fill).trans (hh _)
  · cases d <;> rfl

/-- Every move keeps the parameters in their ranges. -/
theorem keptByMoves_paramsInOrder : KeptByMoves State.ParamsInOrder where
  pending _ h := h.congr rfl
  link _ h := h.congr rfl
  time _ h := h.congr rfl
  place h _ _ _ _ := h.of_still ((answerWp_still ..).trans ((appendEntry_still ..).trans rfl))
  drainEnd h _ _ _ _ := h.of_still (endDrain_still ..)
  commit h _ _ _ := h.of_still (commit_still ..)
  release h _ _ _ _ := h.congr rfl
  begin h _ _ _ _ _ := h.congr rfl
  restartDone h _ _ _ := h.of_still completeRestart_still
  grant h _ _ _ _ _ := h.congr rfl
  deliver _ err mem h _ _ _ := State.ParamsInOrder.of_still (h.congr rfl) (deliver_still _ err mem)
  cancelEnds h _ := h.congr rfl
  answersEnd h _ := h.congr rfl
  windowWrite be data h _ hc := h.congr (windowWrite_settings be data hc)
  writerWritesThrough _ _ _ h _ := h.congr rfl
  writerReads _ _ h _ := h.congr (by unfold State.startWpRead; split <;> rfl)
  writerReadsThrough _ _ _ h _ := h.congr (by unfold State.startWpRead; split <;> rfl)
  consumerReads _ _ h _ := h.congr (by unfold State.startCpRead; split <;> rfl)
  consumerReadsThrough _ _ _ h _ := h.congr (by unfold State.startCpRead; split <;> rfl)
  consumerWritesThrough _ _ _ h _ := h.congr rfl
  consumerRefused d h _ := h.congr (by cases d <;> rfl)
  timer d h _ _ := h.congr (updDom_settings d fun _ => rfl)
  request d c h _ _ := h.congr (request_settings d c)
  groupHold d h _ := h.congr (updDom_settings d fun x => by unfold Domain.expireGroupHold; split <;> rfl)
  sampleHold d h _ := h.congr (updDom_settings d fun x => by unfold Domain.expireSampleHold; split <;> rfl)
  writeHold {s w} h _ _ := h.congr (by unfold State.expireHeld; generalize w.dom = d; cases d <;> rfl)
  epochIn d _ h _ := h.congr (updDom_settings d fun _ => rfl)
  sampleN d _ h _ := h.congr (updDom_settings d fun _ => rfl)
  tick h _ := h.congr rfl
  assertReset _ _ := paramsInOrder_of_reset rfl
  released _ _ _ := paramsInOrder_of_reset rfl
  powerUp _ _ _ := paramsInOrder_of_reset rfl
  bumpDev _ h := h.congr rfl
  linkError h := h.congr rfl
  store h _ hv _ := h.store hv
  clearPending _ h := h.congr rfl
  clearDom d h := h.congr (updDom_settings d fun _ => rfl)
  clearDev h := h.congr rfl
  start {s d} h _ _ _ _ := h.congr (updDom_settings d fun _ => rfl)
  stop {s d} h _ _ _ := h.congr ((request_settings d .stop).trans (updDom_settings d fun _ => rfl))
  discard {s d} h _ _ _ := h.congr (by cases d <;> rfl)
  restart h _ _ := h.congr rfl

/-- Settles O59: a parameter changes where a value in its range is stored, and at a reset. -/
theorem parametersStayInRange : Obligations.ParametersStayInRange := by
  unfold Obligations.ParametersStayInRange
  intro s t hs he
  exact keptByMoves_paramsInOrder.step hs he

end Sys2Proof.Machine
end

section
/-! SUPPORT. The order of the ring: what it reads, and the boundary requests that keep it (R35, R133). -/

namespace Sys2Proof.Machine

variable {s t : State}

/-! ### What the order of the ring reads -/

/-- R35: a boundary with cause STOP is FINAL, and its count of merges is bounded. -/
def Boundary.InOrder (b : Boundary) : Prop := (b.causes.stop = true → b.final = true) ∧ b.merged ≤ 15

/-- The pending boundaries are in order (R35). -/
def State.BoundariesInOrder (s : State) : Prop := ∀ d b, (s.dom d).sched.record = some b → b.InOrder

/-- What the order of the ring reads of an element. -/
def Element.ringPart (e : Element) : Dom × Half × Nat × Nat := (e.dom, e.serial, e.committed, e.retired)

/-- What the order of the ring reads of a pending boundary. -/
def Boundary.ringPart (b : Boundary) : Causes × Nat × Bool := (b.causes, b.merged, b.final)

/-- What the order of the ring reads of a domain. -/
def Domain.ringPart (x : Domain) : Half × Option (Causes × Nat × Bool) := (x.epoch, x.sched.record.map Boundary.ringPart)

/-- What the order of the ring reads of the state. -/
def State.ringPart (s : State) :=
  (s.history, s.serial, s.queue.map Element.ringPart, s.dom0.ringPart, s.dom1.ringPart)

theorem recordsOf_congr (h : t.history = s.history) (d : Dom) : t.recordsOf d = s.recordsOf d := by
  rw [State.recordsOf, State.recordsOf, h]

/-- A change that leaves the ring, the serials, the elements and the epoch numbers. -/
theorem State.RingInOrder.of_boundaries (h : s.RingInOrder) (hh : t.history = s.history) (hs : t.serial = s.serial)
    (hq : t.queue.map Element.ringPart = s.queue.map Element.ringPart) (he : ∀ d, (t.dom d).epoch = (s.dom d).epoch)
    (hb : t.BoundariesInOrder) : t.RingInOrder where
  bounded := hh ▸ h.bounded
  serials := by rw [hh, hs]; exact h.serials
  records := hh ▸ h.records
  epochs d := by rw [recordsOf_congr hh, he]; exact h.epochs d
  pendingNewest d := by rw [recordsOf_congr hh]; exact h.pendingNewest d
  pendingQueued r hr hp := by
    obtain ⟨e, hes, h1, h2, h3, h4⟩ := h.pendingQueued r (hh ▸ hr) hp
    have : e.ringPart ∈ t.queue.map Element.ringPart := hq ▸ List.mem_map_of_mem hes
    obtain ⟨k, hk, hke⟩ := List.mem_map.1 this
    simp only [Element.ringPart, Prod.mk.injEq] at hke
    obtain ⟨k1, k2, k3, k4⟩ := hke
    exact ⟨k, hk, k1.trans h1, k2.trans h2, k3.trans h3, k4 ▸ h4⟩
  boundaries := hb

theorem Boundary.InOrder.congr {b c : Boundary} (h : b.InOrder) (hc : c.ringPart = b.ringPart) : c.InOrder := by
  simp only [Boundary.ringPart, Prod.mk.injEq] at hc
  obtain ⟨h1, h2, h3⟩ := hc
  rwa [Boundary.InOrder, h1, h2, h3]

/-- What leaves what it reads leaves the order of the ring. -/
theorem State.RingInOrder.congr (h : s.RingInOrder) (ht : t.ringPart = s.ringPart) : t.RingInOrder := by
  simp only [State.ringPart, Prod.mk.injEq] at ht
  obtain ⟨hh, hs, hq, h0, h1⟩ := ht
  have hx : ∀ d, (t.dom d).ringPart = (s.dom d).ringPart := fun d => by cases d <;> assumption
  refine h.of_boundaries hh hs hq (fun d => congrArg Prod.fst (hx d)) fun d b hb => ?_
  have hm : (s.dom d).sched.record.map Boundary.ringPart = some b.ringPart := by
    have := congrArg Prod.snd (hx d)
    simp only [Domain.ringPart, hb, Option.map_some] at this
    exact this.symm
  obtain ⟨c, hc, hcb⟩ := Option.map_eq_some_iff.1 hm
  exact Boundary.InOrder.congr (h.boundaries d c hc) hcb.symm

theorem updDom_ringPart (d : Dom) {f : Domain → Domain} (hf : (f (s.dom d)).ringPart = (s.dom d).ringPart) :
    (s.updDom d f).ringPart = s.ringPart := by
  cases d <;> simp only [State.ringPart, State.updDom, State.setDom, State.dom] at * <;> rw [hf]

theorem Domain.ringPart_of_uncounted {x y : Domain} (h : x.uncounted = y.uncounted) : x.ringPart = y.ringPart :=
  (congrArg Domain.ringPart h :)

/-- A part with an empty ring and no pending boundary (R42, R133). -/
theorem ringInOrder_of_empty (hh : s.history = []) (hs : ∀ d, (s.dom d).sched = .idle) : s.RingInOrder where
  bounded := by simp [hh]
  serials i r hr := by simp [hh] at hr
  records r hr := by simp [hh] at hr
  epochs d i r hr := by simp [State.recordsOf, hh] at hr
  pendingNewest d i r hr := by simp [State.recordsOf, hh] at hr
  pendingQueued r hr := by simp [hh] at hr
  boundaries d b hb := by simp [hs, Sched.record] at hb

/-! ### Boundary requests -/

theorem create_inOrder (c : Cause) (n : Nat) : (Boundary.create c n).InOrder := by
  refine ⟨?_, Nat.zero_le _⟩
  cases c <;> simp [Boundary.create, Causes.add, Causes.empty]

theorem Boundary.InOrder.merge {b : Boundary} (h : b.InOrder) (c : Cause) : (b.merge c).InOrder := by
  obtain ⟨hstop, -⟩ := h
  refine ⟨?_, Nat.min_le_right _ _⟩
  cases c
  case stop => simp [Boundary.merge]
  all_goals simpa [Boundary.merge, Causes.add] using hstop

/-- A new boundary or limit of one domain leaves the order of the ring if the boundary is in order. -/
theorem State.RingInOrder.sched (h : s.RingInOrder) (d : Dom) (k : Sched) (hk : ∀ b, k.record = some b → b.InOrder) :
    (s.updDom d fun x => { x with sched := k }).RingInOrder := by
  refine h.of_boundaries (by simp) (by simp) (by simp) ((forall_dom d).2 ⟨by simp, by simp⟩) ((forall_dom d).2 ⟨?_, ?_⟩)
  · rw [updDom_dom_same]; exact hk
  · rw [updDom_dom_otherDom]; exact h.boundaries _

theorem noteMerge_ringPart (d : Dom) : (s.noteMerge d).ringPart = s.ringPart := by cases d <;> rfl

theorem State.RingInOrder.request (h : s.RingInOrder) (d : Dom) (c : Cause) : (s.request d c).RingInOrder := by
  have hone : ∀ (k : Sched) (b : Boundary), k.record = some b → b.InOrder → ∀ b', k.record = some b' → b'.InOrder :=
    fun k b hk hb b' hb' => Option.some.inj (hk.symm.trans hb') ▸ hb
  have hold : ∀ b, (s.dom d).sched.record = some b → b.InOrder := h.boundaries d
  rcases request_cases s d c with e | ⟨-, ⟨-, -, -, e⟩ | ⟨-, e⟩ | ⟨b, hs, e⟩ | ⟨b, g, l, hs, e⟩⟩ <;> rw [e]
  · exact h
  · have := h.sched d (.settle (.create c s.time.tick) (some (s.dom d).params.groupHold.toNat)
      (some (s.dom d).params.sampleHold.toNat)) (hone _ _ rfl (create_inOrder c _))
    exact this.congr (by cases d <;> rfl)
  · exact h.sched d _ (hone _ _ rfl (create_inOrder c _))
  · rw [hs] at hold
    exact (h.sched d _ (hone _ _ rfl ((hold b rfl).merge c))).congr (noteMerge_ringPart d)
  · rw [hs] at hold
    exact (h.sched d (.settle (b.merge c) g l) (hone _ _ rfl ((hold b rfl).merge c))).congr (noteMerge_ringPart d)

/-! ### The elements of the drain queue -/

/-- R95: behind the head element no element is of its domain. -/
theorem State.StatesAgree.dom_ne_of_mem_rest {e k : Element} {rest : List Element} (h : s.StatesAgree) (hq : s.queue = e :: rest)
    (hk : k ∈ rest) : k.dom ≠ e.dom := by
  have hone := (h.domains e.dom).oneElement
  rw [elementCount_of_cons hq, if_pos rfl] at hone
  have hzero : rest.countP (fun k => decide (k.dom = e.dom)) = 0 := by omega
  simpa using List.countP_eq_zero.1 hzero k hk

/-- R95: an element of the head element's domain is the head element. -/
theorem State.StatesAgree.eq_head {e k : Element} {rest : List Element} (h : s.StatesAgree) (hq : s.queue = e :: rest)
    (hk : k ∈ s.queue) (hd : k.dom = e.dom) : k = e := by
  rw [hq] at hk
  rcases List.mem_cons.1 hk with rfl | hk
  · rfl
  · exact absurd hd (h.dom_ne_of_mem_rest hq hk)

/-- R1, R99: a bank holds at most all the slots. -/
theorem State.StatesAgree.openBank_le (h : s.StatesAgree) (d : Dom) : (s.dom d).openBank.length ≤ 512 := by
  have hc := h.conserved
  rw [slots_eq d] at hc
  have : Config.poolSize = 512 := rfl
  omega

end Sys2Proof.Machine
end

section
/-! SUPPORT. The order of the ring through the commit point, the drain end and the retirements, and every move (R134 to R138). -/

namespace Sys2Proof.Machine

variable {s t : State}

/-! ### The commit point puts a record in front (R46, R134, R135) -/

theorem eq_otherDom {d e : Dom} (h : e ≠ d) : e = otherDom d := by
  cases d <;> cases e <;> simp_all [otherDom]

/-- A record of the ring after a commit point is the new one or one of before, one place later. -/
theorem getElem?_take_cons {r x : HistoryRecord} {h : List HistoryRecord} {n i : Nat}
    (hx : ((r :: h).take n)[i]? = some x) : (i = 0 ∧ x = r) ∨ ∃ j, i = j + 1 ∧ h[j]? = some x := by
  rw [List.getElem?_take] at hx
  split at hx
  case isFalse => cases hx
  cases i with
  | zero => exact .inl ⟨rfl, by simpa [eq_comm] using hx⟩
  | succ j => exact .inr ⟨j, rfl, by simpa using hx⟩

theorem filter_take_getElem? {l : List HistoryRecord} {p : HistoryRecord → Bool} {n i : Nat} {x : HistoryRecord}
    (hx : ((l.take n).filter p)[i]? = some x) : (l.filter p)[i]? = some x := by
  have hpre : (l.take n).filter p <+: l.filter p := (List.take_prefix n l).filter p
  obtain ⟨hi, rfl⟩ := List.getElem?_eq_some_iff.1 hx
  rw [hpre.getElem hi, List.getElem?_eq_getElem]

theorem half_succ_sub (n : Half) (i : Nat) : n + 1 - BitVec.ofNat 16 (i + 1) = n - BitVec.ofNat 16 i := by
  rw [BitVec.ofNat_add]
  bv_omega

/-- R46, R136. -/
theorem epochRecord_inOrder {d : Dom} {b : Boundary} (h : s.StatesAgree) (hb : b.InOrder) : (s.epochRecord d b).InOrder := by
  obtain ⟨hstop, hmerged⟩ := hb
  have hlen := keptEntries_length_le (s := s) d
  have hpool := h.openBank_le d
  cases hk : s.keptEntries d with
  | nil => exact ⟨by simp [State.epochRecord, hk], by simp [State.epochRecord, hk], Nat.zero_le _,
      by simp [State.epochRecord, hk], hstop, hmerged⟩
  | cons e l => exact ⟨by simp [State.epochRecord, hk], by simp [State.epochRecord, hk], Nat.zero_le _,
      by simp only [State.epochRecord]; omega, hstop, hmerged⟩

theorem State.RingInOrder.commit {d : Dom} {b : Boundary} (h : s.RingInOrder) (ha : s.StatesAgree)
    (hs : (s.dom d).sched.record = some b) (hsettle : (s.dom d).sched.settling = true) : (s.commit d b).RingInOrder := by
  have hx := commit_uncounted (s := s) d b
  have hy := commit_dom_otherDom (s := s) d b
  have ho := commit_outside (s := s) d b
  have hhist : (s.commit d b).history = (s.epochRecord d b :: s.history).take 16 := by
    simpa using congrArg State.history ho
  have hserial : (s.commit d b).serial = s.serial + 1 := by simpa using congrArg State.serial ho
  have hqueue : (s.commit d b).queue = if s.keptEntries d = [] then s.queue else s.queue ++ [s.epochElement d] := by
    simpa using congrArg State.queue ho
  have hepoch : ((s.commit d b).dom d).epoch = (s.dom d).epoch + 1 := (congrArg Domain.epoch hx :)
  have hsched : ((s.commit d b).dom d).sched = .idle := (congrArg Domain.sched hx :)
  have hrecords : ∀ e i x, ((s.commit d b).recordsOf e)[i]? = some x →
      (e = d ∧ ((i = 0 ∧ x = s.epochRecord d b) ∨ ∃ j, i = j + 1 ∧ (s.recordsOf d)[j]? = some x)) ∨
        (e = otherDom d ∧ (s.recordsOf e)[i]? = some x) := by
    intro e i x hi
    rw [State.recordsOf, hhist] at hi
    have hi := filter_take_getElem? hi
    by_cases he : e = d
    · subst he
      refine .inl ⟨rfl, ?_⟩
      rw [List.filter_cons_of_pos (by simp [State.epochRecord])] at hi
      cases i with
      | zero => exact .inl ⟨rfl, by simpa [eq_comm] using hi⟩
      | succ j => exact .inr ⟨j, rfl, by simpa [State.recordsOf] using hi⟩
    · refine .inr ⟨eq_otherDom he, ?_⟩
      rwa [List.filter_cons_of_neg (by simpa [State.epochRecord] using Ne.symm he)] at hi
  have hnone : ∀ x ∈ s.recordsOf d, x.drain ≠ .pending := fun x hxm hp => by
    obtain ⟨hxm, hxd⟩ := List.mem_filter.1 hxm
    obtain ⟨e, he, hed, -⟩ := h.pendingQueued x hxm hp
    have hn := ((ha.domains d).settled hsettle).2
    have hfree : ∀ k ∈ s.queue, k.dom ≠ d := by simpa [State.elementCount] using hn
    exact hfree e he (hed.trans (by simpa using hxd))
  have hold : ∀ k ∈ s.queue, k ∈ (s.commit d b).queue := fun k hk => by
    rw [hqueue]; split
    · exact hk
    · exact List.mem_append_left _ hk
  constructor
  · rw [hhist]
    exact (List.length_take_le _ _)
  · intro i x hi
    rw [hhist] at hi
    rw [hserial]
    rcases getElem?_take_cons hi with ⟨rfl, rfl⟩ | ⟨j, rfl, hj⟩
    · simp [State.epochRecord]
    · rw [half_succ_sub]; exact h.serials j x hj
  · intro x hxm
    rw [hhist] at hxm
    rcases List.mem_cons.1 (List.mem_of_mem_take hxm) with rfl | hxm
    · exact epochRecord_inOrder ha (h.boundaries d b hs)
    · exact h.records x hxm
  · intro e i x hi
    rcases hrecords e i x hi with ⟨rfl, ⟨rfl, rfl⟩ | ⟨j, rfl, hj⟩⟩ | ⟨rfl, hj⟩
    · rw [hepoch]; simp [State.epochRecord]
    · rw [hepoch, half_succ_sub]; exact h.epochs e j x hj
    · rw [hy]; exact h.epochs _ i x hj
  · intro e i x hi hp
    rcases hrecords e i x hi with ⟨rfl, ⟨rfl, rfl⟩ | ⟨j, rfl, hj⟩⟩ | ⟨rfl, hj⟩
    · rfl
    · exact absurd hp (hnone x (List.mem_of_getElem? hj))
    · exact h.pendingNewest _ i x hj hp
  · intro x hxm hp
    rw [hhist] at hxm
    rcases List.mem_cons.1 (List.mem_of_mem_take hxm) with rfl | hxm
    · have hk : s.keptEntries d ≠ [] := fun hk => by simp [State.epochRecord, hk] at hp
      exact ⟨s.epochElement d, by simp [hqueue, hk], rfl, rfl, rfl, Nat.le_refl _⟩
    · obtain ⟨e, he, h1, h2, h3, h4⟩ := h.pendingQueued x hxm hp
      exact ⟨e, hold e he, h1, h2, h3, h4⟩
  · refine (forall_dom d).2 ⟨fun c hc => ?_, by rw [hy]; exact h.boundaries _⟩
    rw [hsched] at hc
    cases hc

/-! ### The record of an element is changed (R101, R103, R137) -/

/-- A change of the records of element `e` that leaves their place in the ring. -/
structure Refiled (s t : State) (e : Element) (f : HistoryRecord → HistoryRecord) : Prop where
  history : t.history = s.history.map fun r => if r.isOf e then f r else r
  serial : ∀ r, (f r).serial = r.serial
  dom : ∀ r, (f r).dom = r.dom
  epoch : ∀ r, (f r).epoch = r.epoch

theorem isOf_iff {r : HistoryRecord} {e : Element} :
    r.isOf e = true ↔ r.serial = e.serial ∧ r.dom = e.dom ∧ r.drain = .pending := by
  simp [HistoryRecord.isOf, and_assoc]

section
variable {e : Element} {f : HistoryRecord → HistoryRecord}

theorem Refiled.getElem? (h : Refiled s t e f) {i : Nat} {x : HistoryRecord} (hx : t.history[i]? = some x) :
    ∃ r, s.history[i]? = some r ∧ x = if r.isOf e then f r else r := by
  rw [h.history, List.getElem?_map, Option.map_eq_some_iff] at hx
  obtain ⟨r, hr, rfl⟩ := hx
  exact ⟨r, hr, rfl⟩

theorem Refiled.dom_eq (h : Refiled s t e f) (r : HistoryRecord) : (if r.isOf e then f r else r).dom = r.dom := by
  split
  · exact h.dom r
  · rfl

theorem Refiled.recordsOf (h : Refiled s t e f) (d : Dom) :
    t.recordsOf d = (s.recordsOf d).map fun r => if r.isOf e then f r else r := by
  rw [State.recordsOf, State.recordsOf, h.history, List.filter_map]
  congr 1
  refine List.filter_congr fun r _ => ?_
  rw [Function.comp_apply, h.dom_eq]

/-- The order of the ring after the records of an element have changed. -/
theorem State.RingInOrder.refiled (h : s.RingInOrder) (hf : Refiled s t e f) (hs : t.serial = s.serial)
    (he : ∀ d, (t.dom d).epoch = (s.dom d).epoch)
    (hi : ∀ r ∈ s.history, r.isOf e = true → (f r).InOrder)
    (hq : ∀ r ∈ s.history, r.drain = .pending → (if r.isOf e then f r else r).drain = .pending →
      ∃ k ∈ t.queue, k.dom = r.dom ∧ k.serial = r.serial ∧ k.committed = (if r.isOf e then f r else r).committed ∧
        (if r.isOf e then f r else r).lost ≤ k.retired)
    (hb : t.BoundariesInOrder) : t.RingInOrder := by
  have hpend : ∀ r : HistoryRecord, (if r.isOf e then f r else r).drain = .pending → r.drain = .pending := fun r hr => by
    split at hr
    · next hk => exact (isOf_iff.1 hk).2.2
    · exact hr
  have hserial : ∀ r : HistoryRecord, (if r.isOf e then f r else r).serial = r.serial := fun r => by
    split
    · exact hf.serial r
    · rfl
  have hepoch : ∀ r : HistoryRecord, (if r.isOf e then f r else r).epoch = r.epoch := fun r => by
    split
    · exact hf.epoch r
    · rfl
  constructor
  · rw [hf.history, List.length_map]; exact h.bounded
  · intro i x hx
    obtain ⟨r, hr, rfl⟩ := hf.getElem? hx
    rw [hserial, hs]; exact h.serials i r hr
  · intro x hx
    rw [hf.history] at hx
    obtain ⟨r, hr, rfl⟩ := List.mem_map.1 hx
    split
    · next hk => exact hi r hr hk
    · exact h.records r hr
  · intro d i x hx
    rw [hf.recordsOf, List.getElem?_map, Option.map_eq_some_iff] at hx
    obtain ⟨r, hr, rfl⟩ := hx
    rw [hepoch, he]; exact h.epochs d i r hr
  · intro d i x hx hp
    rw [hf.recordsOf, List.getElem?_map, Option.map_eq_some_iff] at hx
    obtain ⟨r, hr, rfl⟩ := hx
    exact h.pendingNewest d i r hr (hpend r hp)
  · intro x hx hp
    rw [hf.history] at hx
    obtain ⟨r, hr, rfl⟩ := List.mem_map.1 hx
    rw [hserial, hf.dom_eq]
    exact hq r hr (hpend r hp) hp
  · exact hb

end

theorem drainEnded_record (x : Domain) : x.drainEnded.sched.record = x.sched.record := by
  unfold Domain.drainEnded
  split
  · next b hs => rw [hs]; rfl
  · rfl
  · rfl

/-- R102, R103. -/
theorem State.RingInOrder.endDrain {e : Element} {rest : List Element} (h : s.RingInOrder) (hq : s.queue = e :: rest) :
    (s.endDrain e rest).RingInOrder := by
  have hx := endDrain_dom (s := s) e rest
  have hy := endDrain_dom_otherDom (s := s) e rest
  have ho := endDrain_outside (s := s) e rest
  have hqueue : (s.endDrain e rest).queue = rest := by simpa using congrArg State.queue ho
  have hf : Refiled s (s.endDrain e rest) e fun r => { r with drain := .done } :=
    ⟨by simpa [State.updRecord] using congrArg State.history ho, fun _ => rfl, fun _ => rfl, fun _ => rfl⟩
  refine h.refiled hf (by simpa using congrArg State.serial ho) ((forall_dom e.dom).2 ⟨?_, by rw [hy]⟩) ?_ ?_
    ((forall_dom e.dom).2 ⟨?_, by rw [hy]; exact h.boundaries _⟩)
  · rw [hx]; unfold Domain.drainEnded; split <;> rfl
  · intro r hr hk
    obtain ⟨-, -, hp⟩ := isOf_iff.1 hk
    obtain ⟨h1, h2, h3, h4, h5, h6⟩ := h.records r hr
    have hne : r.empty ≠ true := fun k => by simp [h2.1 k] at hp
    exact ⟨h1, by simpa using hne, h3, h4, h5, h6⟩
  · intro r hr hp hp'
    split at hp'
    · cases hp'
    · next hk =>
      rw [if_neg hk, hqueue]
      obtain ⟨k, hkm, h1, h2, h3, h4⟩ := h.pendingQueued r hr hp
      rw [hq] at hkm
      rcases List.mem_cons.1 hkm with rfl | hkm
      · exact absurd (isOf_iff.2 ⟨h2.symm, h1.symm, hp⟩) hk
      · exact ⟨k, hkm, h1, h2, h3, h4⟩
  · rw [hx]
    dsimp only
    rw [drainEnded_record]
    exact h.boundaries _

/-- R99, R101. -/
theorem State.RingInOrder.retire (h : s.RingInOrder) (ha : s.StatesAgree) (lost : Bool) : (s.retire lost).RingInOrder := by
  match hq : s.queue with
  | [] => rw [retire_of_nil lost (.inl hq)]; exact h
  | e :: rest =>
    match hb : (s.dom e.dom).drainBank with
    | [] => rw [retire_of_nil lost (.inr ⟨e, rest, hq, hb⟩)]; exact h
    | first :: bank =>
      have hx := retire_uncounted lost hq hb
      have hy := retire_dom_otherDom lost hq hb
      have ho := retire_outside lost hq hb
      have hqueue : (s.retire lost).queue = { e with retired := e.retired + 1 } :: rest := by
        simpa using congrArg State.queue ho
      have hepoch : ∀ d, ((s.retire lost).dom d).epoch = (s.dom d).epoch :=
        (forall_dom e.dom).2 ⟨(congrArg Domain.epoch hx :), by rw [hy]⟩
      have hsched : ∀ d, ((s.retire lost).dom d).sched = (s.dom d).sched :=
        (forall_dom e.dom).2 ⟨(congrArg Domain.sched hx :), by rw [hy]⟩
      have hf : Refiled s (s.retire lost) e fun r => if lost then { r with lost := r.lost + 1 } else r := by
        refine ⟨?_, fun r => ?_, fun r => ?_, fun r => ?_⟩
        · have hh : (s.retire lost).history = s.lossNoted e lost := by simpa using congrArg State.history ho
          rw [hh, State.lossNoted]
          cases lost <;> simp [State.updRecord]
        all_goals cases lost <;> rfl
      have hlast : e.retired + 1 ≤ e.committed := by
        have := ha.counted e (by simp [hq])
        rw [hb, List.length_cons] at this
        omega
      have hown : ∀ r ∈ s.history, r.isOf e = true → r.committed = e.committed ∧ r.lost ≤ e.retired := fun r hr hk => by
        obtain ⟨-, hd, hp⟩ := isOf_iff.1 hk
        obtain ⟨k, hkm, h1, -, h3, h4⟩ := h.pendingQueued r hr hp
        obtain rfl := ha.eq_head hq hkm (h1.trans hd)
        exact ⟨h3.symm, h4⟩
      refine h.refiled hf (by simpa using congrArg State.serial ho) hepoch ?_ ?_
        fun d b hbd => h.boundaries d b (hsched d ▸ hbd)
      · intro r hr hk
        obtain ⟨hc, hl⟩ := hown r hr hk
        obtain ⟨h1, h2, h3, h4, h5, h6⟩ := h.records r hr
        cases lost
        · exact ⟨h1, h2, h3, h4, h5, h6⟩
        · exact ⟨h1, h2, by simp only [if_true]; omega, h4, h5, h6⟩
      · intro r hr hp _
        rw [hqueue]
        obtain ⟨k, hkm, h1, h2, h3, h4⟩ := h.pendingQueued r hr hp
        by_cases hk : r.isOf e = true
        · obtain ⟨hc, hl⟩ := hown r hr hk
          obtain ⟨h1', h2', -⟩ := isOf_iff.1 hk
          rw [if_pos hk]
          refine ⟨_, List.mem_cons_self .., h2'.symm, h1'.symm, ?_, ?_⟩
          · cases lost <;> exact hc.symm
          · cases lost <;> simp only [if_true, Bool.false_eq_true, if_false] <;> omega
        · rw [if_neg hk]
          rw [hq] at hkm
          rcases List.mem_cons.1 hkm with rfl | hkm
          · exact ⟨_, List.mem_cons_self .., h1, h2, h3, by dsimp only; omega⟩
          · exact ⟨k, List.mem_cons_of_mem _ hkm, h1, h2, h3, h4⟩

/-! ### Every move -/

theorem deliver_ringPart {o : Outstanding} (err : Bool) (mem : Word) (ho : o.who ≠ .drain) :
    (s.deliver o err mem).ringPart = s.ringPart := by
  have hc : ∀ u : State, (u.countError err).ringPart = u.ringPart := fun u => by cases err <;> rfl
  have hf : ∀ (u : State) (r : ReadRecord), (u.clearFence r).ringPart = u.ringPart := fun u r => by
    unfold State.clearFence
    split
    · next d _ _ =>
      have hq : (u.queue.map fun e => if e.dom = d then { e with fence := false } else e).map Element.ringPart =
          u.queue.map Element.ringPart := by
        rw [List.map_map]
        refine List.map_congr_left fun e _ => ?_
        rw [Function.comp_apply]
        split <;> rfl
      simp only [State.ringPart, hq]
    · rfl
  unfold State.deliver
  split
  · next h => exact absurd h ho
  · rw [hc]
    split
    · rfl
    · unfold State.finishCpRead
      dsimp only
      split
      · rw [hf]; rfl
      · rfl
  · rw [hc]
    split <;> rfl

theorem ringPart_of_frame (d : Dom) (hh : t.history = s.history) (hs : t.serial = s.serial) (hq : t.queue = s.queue)
    (hx : (t.dom d).ringPart = (s.dom d).ringPart) (hy : t.dom (otherDom d) = s.dom (otherDom d)) :
    t.ringPart = s.ringPart := by
  have hd : ∀ e, (t.dom e).ringPart = (s.dom e).ringPart := (forall_dom d).2 ⟨hx, by rw [hy]⟩
  have h0 : t.dom0.ringPart = s.dom0.ringPart := hd .d0
  have h1 : t.dom1.ringPart = s.dom1.ringPart := hd .d1
  simp only [State.ringPart, hh, hs, hq, h0, h1]

theorem placed_ringPart {d : Dom} {a : Addr} {be : Lanes} {data : Word} (h : s.Placed t d a be data) :
    t.ringPart = s.ringPart := by
  have hx := h.domain
  refine ringPart_of_frame d (congrArg State.history h.frame :) (congrArg State.serial h.frame :)
    (congrArg State.queue h.frame :) ?_ h.others
  rw [← hx]; rfl

theorem held_ringPart {w : HeldWrite} (h : s.Held t w) : t.ringPart = s.ringPart := by
  have hx := h.domain
  refine ringPart_of_frame w.dom (congrArg State.history h.frame :) (congrArg State.serial h.frame :)
    (congrArg State.queue h.frame :) ?_ h.others
  rw [← hx]; rfl

theorem coalesceEntry_ringPart (d : Dom) (a : Addr) (be : Lanes) (data : Word) :
    (s.coalesceEntry d a be data).ringPart = s.ringPart := by
  have hn : ∀ u : State, (u.noteWrite d a).ringPart = u.ringPart := by
    intro u; unfold State.noteWrite; split <;> rfl
  rw [State.coalesceEntry, hn]
  exact (updDom_ringPart d rfl).trans (updDom_ringPart d rfl)

theorem State.RingInOrder.windowWrite {d : Dom} {a : Addr} (be : Lanes) (data : Word) (h : s.RingInOrder)
    (hc : s.classify a = some d) : (s.acceptWp.windowWrite d a be data).RingInOrder := by
  have hacc : s.acceptWp.RingInOrder := h.congr rfl
  have hheld : ∀ r : HeldReason, (s.acceptWp.hold d r a be data).RingInOrder := fun r =>
    h.congr (held_ringPart (hold_held d r a be data))
  rcases windowWrite_cases be data hc with ⟨-, e⟩ | ⟨-, ⟨-, e⟩ | ⟨-, e⟩ | ⟨-, e | ⟨-, ⟨hroom, e⟩ | e | e | e⟩⟩⟩ <;> rw [e]
  · exact h.congr rfl
  · exact hheld _
  · exact hheld _
  · exact hacc.congr (coalesceEntry_ringPart d a be data)
  · simp only [State.hasRoom, Bool.and_eq_true, decide_eq_true_eq] at hroom
    exact hacc.congr (placed_ringPart (appendEntry_placed d a be data hroom.2))
  · exact hheld _
  · exact (hheld _).request d .fill
  · exact h.congr (by cases d <;> rfl)

theorem expireHold_ringPart (d : Dom) :
    (s.updDom d Domain.expireGroupHold).ringPart = s.ringPart ∧ (s.updDom d Domain.expireSampleHold).ringPart = s.ringPart := by
  constructor <;> apply updDom_ringPart
  · unfold Domain.expireGroupHold
    split <;> simp_all [Domain.ringPart, Sched.record, Boundary.ringPart]
  · unfold Domain.expireSampleHold
    split <;> simp_all [Domain.ringPart, Sched.record, Boundary.ringPart]

theorem tickLimits_ringPart : s.tickLimits.ringPart = s.ringPart := by
  have hx : ∀ x : Domain, x.tickLimits.ringPart = x.ringPart := by
    intro x
    cases hs : x.sched <;> simp [Domain.ringPart, Domain.tickLimits, hs, Sched.record]
  simp only [State.ringPart, State.tickLimits, hx]

theorem store_ringPart (p : Param) (v : Word) : (s.store p v).ringPart = s.ringPart := by
  cases p with
  | setting d q => exact updDom_ringPart d (f := fun x => x.writeSetting q v) (by cases q <;> rfl)
  | partId => rfl
  | revision => rfl
  | poolSize => rfl
  | tickDiv => rfl
  | memTimeout => rfl
  | eventEnable => rfl
  | winBase w => rfl
  | winCtrl w => rfl
  | grp g => rfl

/-- The invariant of the commit history, with the order of states that the commit point and the retirements read. -/
theorem keptByMoves_ringInOrder : KeptByMoves fun s => s.StatesAgree ∧ s.RingInOrder where
  pending l h := ⟨keptByMoves_statesAgree.pending l h.1, h.2.congr rfl⟩
  link k h := ⟨keptByMoves_statesAgree.link k h.1, h.2.congr rfl⟩
  time b h := ⟨keptByMoves_statesAgree.time b h.1, h.2.congr rfl⟩
  place {s w} h hh hr hs hroom := by
    refine ⟨keptByMoves_statesAgree.place h.1 hh hr hs hroom, ?_⟩
    simp only [State.hasRoom, Bool.and_eq_true, decide_eq_true_eq] at hroom
    have hring : ({ s with held := none } : State).RingInOrder := h.2.congr rfl
    exact hring.congr (placed_ringPart (appendEntry_placed w.dom w.addr w.be w.data hroom.2))
  drainEnd h hq hr hp hb := ⟨keptByMoves_statesAgree.drainEnd h.1 hq hr hp hb, h.2.endDrain hq⟩
  commit h hs hr hc := ⟨keptByMoves_statesAgree.commit h.1 hs hr hc, h.2.commit h.1 (by rw [hs]; rfl) (by rw [hs]; rfl)⟩
  release h hh hr hs ho := ⟨keptByMoves_statesAgree.release h.1 hh hr hs ho, h.2.congr rfl⟩
  begin {s e rest} h hq hr he hp hf := by
    refine ⟨keptByMoves_statesAgree.begin h.1 hq hr he hp hf, h.2.congr ?_⟩
    simp [State.ringPart, State.beginBank, State.presentDrain, hq, Element.ringPart]
  restartDone {s} h hr hv hq := by
    refine ⟨keptByMoves_statesAgree.restartDone h.1 hr hv hq, ringInOrder_of_empty ?_ fun d => ?_⟩
    · rw [completeRestart_eq]
      rcases releaseRestart_cases s.restartEnded with ⟨w, -, -, e⟩ | ⟨-, e⟩ <;> rw [e] <;> rfl
    · rw [completeRestart_dom]; exact ((h.1.domains d).restarting hv).2
  grant h hr hm hg hc hw := ⟨keptByMoves_statesAgree.grant h.1 hr hm hg hc hw, h.2.congr rfl⟩
  deliver {s o} cancel err mem h hr hm hc := by
    refine ⟨keptByMoves_statesAgree.deliver cancel err mem h.1 hr hm hc, ?_⟩
    have ha : ({ s with arb := { s.arb with mp := none, cancel := cancel } } : State).StatesAgree := h.1.congr rfl
    have hring : ({ s with arb := { s.arb with mp := none, cancel := cancel } } : State).RingInOrder := h.2.congr rfl
    by_cases ho : o.who = .drain
    · have : ∀ u : State, u.deliver o err mem = u.retire err := fun u => by simp only [State.deliver, ho]
      rw [this]
      exact hring.retire ha err
    · exact hring.congr (deliver_ringPart err mem ho)
  cancelEnds h hr := ⟨keptByMoves_statesAgree.cancelEnds h.1 hr, h.2.congr rfl⟩
  answersEnd h hr := ⟨keptByMoves_statesAgree.answersEnd h.1 hr, h.2.congr rfl⟩
  windowWrite be data h hw hc := ⟨keptByMoves_statesAgree.windowWrite be data h.1 hw hc, h.2.windowWrite be data hc⟩
  writerWritesThrough a be data h hw := ⟨keptByMoves_statesAgree.writerWritesThrough a be data h.1 hw, h.2.congr rfl⟩
  writerReads d a h hw := ⟨keptByMoves_statesAgree.writerReads d a h.1 hw,
    h.2.congr (by unfold State.startWpRead; split <;> rfl)⟩
  writerReadsThrough a be data h hw := ⟨keptByMoves_statesAgree.writerReadsThrough a be data h.1 hw,
    h.2.congr (by unfold State.startWpRead; split <;> rfl)⟩
  consumerReads d a h hw := ⟨keptByMoves_statesAgree.consumerReads d a h.1 hw,
    h.2.congr (by unfold State.startCpRead; split <;> rfl)⟩
  consumerReadsThrough a be data h hw := ⟨keptByMoves_statesAgree.consumerReadsThrough a be data h.1 hw,
    h.2.congr (by unfold State.startCpRead; split <;> rfl)⟩
  consumerWritesThrough a be data h hw := ⟨keptByMoves_statesAgree.consumerWritesThrough a be data h.1 hw, h.2.congr rfl⟩
  consumerRefused d h hw := ⟨keptByMoves_statesAgree.consumerRefused d h.1 hw, h.2.congr (by cases d <;> rfl)⟩
  timer d h hr ht := ⟨keptByMoves_statesAgree.timer d h.1 hr ht, h.2.congr (updDom_ringPart d rfl)⟩
  request d c h hr hc := ⟨keptByMoves_statesAgree.request d c h.1 hr hc, h.2.request d c⟩
  groupHold d h hr := ⟨keptByMoves_statesAgree.groupHold d h.1 hr, h.2.congr (expireHold_ringPart d).1⟩
  sampleHold d h hr := ⟨keptByMoves_statesAgree.sampleHold d h.1 hr, h.2.congr (expireHold_ringPart d).2⟩
  writeHold {s w} h hr hh := ⟨keptByMoves_statesAgree.writeHold h.1 hr hh,
    h.2.congr (by cases hd : w.dom <;> simp [State.expireHeld, State.bump, hd] <;> rfl)⟩
  epochIn d v h hr := ⟨keptByMoves_statesAgree.epochIn d v h.1 hr, h.2.congr (updDom_ringPart d rfl)⟩
  sampleN d v h hr := ⟨keptByMoves_statesAgree.sampleN d v h.1 hr, h.2.congr (updDom_ringPart d rfl)⟩
  tick h hr := ⟨keptByMoves_statesAgree.tick h.1 hr, h.2.congr tickLimits_ringPart⟩
  assertReset h hr := ⟨keptByMoves_statesAgree.assertReset h.1 hr, ringInOrder_of_empty rfl fun d => by cases d <;> rfl⟩
  released l h hr := ⟨keptByMoves_statesAgree.released l h.1 hr, ringInOrder_of_empty rfl fun d => by cases d <;> rfl⟩
  powerUp s high l := ⟨keptByMoves_statesAgree.powerUp s high l, ringInOrder_of_empty rfl fun d => by cases d <;> rfl⟩
  bumpDev c h := ⟨keptByMoves_statesAgree.bumpDev c h.1, h.2.congr rfl⟩
  linkError h := ⟨keptByMoves_statesAgree.linkError h.1, h.2.congr rfl⟩
  store {_ p v} h hr hi hl := ⟨keptByMoves_statesAgree.store h.1 hr hi hl, h.2.congr (store_ringPart p v)⟩
  clearPending i h := ⟨keptByMoves_statesAgree.clearPending i h.1, h.2.congr rfl⟩
  clearDom d h := ⟨keptByMoves_statesAgree.clearDom d h.1, h.2.congr (by cases d <;> rfl)⟩
  clearDev h := ⟨keptByMoves_statesAgree.clearDev h.1, h.2.congr rfl⟩
  start {_ d} h hr hv hs hf := ⟨keptByMoves_statesAgree.start h.1 hr hv hs hf, h.2.congr (updDom_ringPart d rfl)⟩
  stop {s d} h hr hv hs := by
    refine ⟨keptByMoves_statesAgree.stop h.1 hr hv hs, ?_⟩
    have hf : (s.updDom d fun x => { x with state := .flushing false }).RingInOrder := h.2.congr (updDom_ringPart d rfl)
    exact hf.request d .stop
  discard {_ d} h hr hv hd := ⟨keptByMoves_statesAgree.discard h.1 hr hv hd, h.2.congr (by cases d <;> rfl)⟩
  restart {s} h hr hv := by
    refine ⟨keptByMoves_statesAgree.restart h.1 hr hv, ?_⟩
    have hx := fun d => acceptRestart_uncounted (s := s) d
    refine h.2.of_boundaries rfl rfl rfl (fun d => (congrArg Domain.epoch (hx d) :)) fun d b hb => ?_
    rw [show (s.acceptRestart.dom d).sched = .idle from (congrArg Domain.sched (hx d) :)] at hb
    cases hb

/-- Settles O57: `keptByMoves_ringInOrder` over the moves of a step. -/
theorem historyStaysInOrder : Obligations.HistoryStaysInOrder := by
  intro s t hs hring ht
  exact (keptByMoves_ringInOrder.step ⟨(statesInOrder_iff.1 hs).1, hring⟩ ht).2

end Sys2Proof.Machine
end

section
/-! SUPPORT. The places where an access outstanding stands: the arbiter's port, and the order of the ports (R107, R111, R170). -/

namespace Sys2Proof.Machine

variable {s t : State}

/-! ### The access of a requester on the port -/

section
variable {a b : Arbiter} {r w : Requester} {m q : Request}

/-- What an outstanding access is, apart from what is left of its limit. -/
def Outstanding.access (o : Outstanding) : Requester × Request := (o.who, o.req)

theorem onPort_congr (hm : b.mp.map Outstanding.access = a.mp.map Outstanding.access) (hg : b.granted = a.granted)
    (r : Requester) : b.onPort r = a.onPort r := by
  unfold Arbiter.onPort
  rw [hg]
  cases ha : a.mp with
  | none =>
    cases hb : b.mp with
    | none => rfl
    | some o => simp [ha, hb] at hm
  | some o =>
    cases hb : b.mp with
    | none => simp [ha, hb] at hm
    | some p =>
      simp only [ha, hb, Option.map_some, Option.some.injEq, Outstanding.access, Prod.mk.injEq] at hm
      simp only [hm.1, hm.2]

theorem onPort_of_mp {o : Outstanding} (h : a.mp = some o) : a.onPort r = if o.who = r then some o.req else none := by
  simp only [Arbiter.onPort, h]

theorem onPort_of_idle (hm : a.mp = none) (hg : a.granted = none) : a.onPort r = none := by
  simp only [Arbiter.onPort, hm, hg]

theorem onPort_grant (n : Nat) : (a.grant w q n).onPort r = if r = w then some q else none := by
  unfold Arbiter.onPort Arbiter.grant
  cases a.cancel <;> simp [eq_comm]

theorem request_grant (n : Nat) : (a.grant w q n).request r = if r = w then none else a.request r := by
  cases r <;> cases w <;> rfl

/-- A grant moves a request from the requests presented to the port (R107, R111). -/
theorem asked_grant (n : Nat) (hm : a.mp = none) (hg : a.granted = none) (hw : a.request w = some q) :
    (a.grant w q n).asked r m ↔ a.asked r m := by
  unfold Arbiter.asked
  rw [onPort_grant, request_grant, onPort_of_idle hm hg]
  by_cases hr : r = w
  · subst hr; simp [hw]
  · simp [hr]

theorem onPort_endCancel (n : Nat) (hc : a.granted.isSome = true → a.mp = none) : (a.endCancel n).onPort r = a.onPort r := by
  unfold Arbiter.endCancel Arbiter.onPort
  cases hg : a.granted with
  | none => rfl
  | some g => rw [hc (by rw [hg]; rfl)]

theorem request_endCancel (n : Nat) : (a.endCancel n).request r = a.request r := by
  unfold Arbiter.endCancel
  split <;> rfl

theorem asked_congr (hr : b.request r = a.request r) (ho : b.onPort r = a.onPort r) : b.asked r m ↔ a.asked r m := by
  rw [Arbiter.asked, Arbiter.asked, hr, ho]

end

/-! ### The ports (R170, R111, R173) -/

theorem State.PortsInOrder.of_eq (h : s.PortsInOrder) (hr : t.resetN = s.resetN) (hh : t.held.isSome = s.held.isSome)
    (hw : t.wp.busy = s.wp.busy) (hc : t.cp.busy = s.cp.busy) (hreq : ∀ r, t.arb.request r = s.arb.request r)
    (hm : t.arb.mp.map Outstanding.access = s.arb.mp.map Outstanding.access) (hg : t.arb.granted = s.arb.granted)
    (hx : t.arb.cancel = s.arb.cancel) : t.PortsInOrder := by
  have hnone : t.arb.mp = none ↔ s.arb.mp = none := by
    rw [← Option.map_eq_none_iff (f := Outstanding.access), hm, Option.map_eq_none_iff]
  have hon := onPort_congr hm hg
  have hcp : t.arb.cpReq = s.arb.cpReq := hreq .cp
  have hdr : t.arb.drainReq = s.arb.drainReq := hreq .drain
  have hwp : t.arb.wpReq = s.arb.wpReq := hreq .wp
  obtain ⟨h1, h2, h3, h4, h5⟩ := h
  constructor
  · rw [hh, hwp, hon, hw]; exact h1
  · rw [hcp, hon, hc]; exact h2
  · rw [hx, hnone]; exact h3
  · rw [hg, hx]; exact h4
  · rw [hr, hw, hc, hdr, hnone, hg]; exact h5

theorem one_eq_zero_iff {b : Bool} : one b = 0 ↔ b = false := by cases b <;> decide

section
variable (h : s.PortsInOrder)
include h

/-- A writer port with no access outstanding has none anywhere. -/
theorem State.PortsInOrder.writer_free (hb : s.wp.busy = false) :
    s.held = none ∧ s.arb.wpReq = none ∧ s.arb.onPort .wp = none := by
  have := h.writer
  rw [hb, show one false = 0 from rfl] at this
  refine ⟨?_, one_isSome_eq_zero.1 (by omega), one_isSome_eq_zero.1 (by omega)⟩
  have : one s.held.isSome = 0 := by omega
  simpa [one_eq_zero_iff] using this

theorem State.PortsInOrder.consumer_free (hb : s.cp.busy = false) : s.arb.cpReq = none ∧ s.arb.onPort .cp = none := by
  have := h.consumer
  rw [hb, show one false = 0 from rfl] at this
  exact ⟨one_isSome_eq_zero.1 (by omega), one_isSome_eq_zero.1 (by omega)⟩

/-- A held write is the writer's one access (R16, R170). -/
theorem State.PortsInOrder.writer_held {w : HeldWrite} (hh : s.held = some w) :
    s.wp.busy = true ∧ s.arb.wpReq = none ∧ s.arb.onPort .wp = none := by
  have := h.writer
  rw [hh, show one (some w).isSome = 1 from rfl] at this
  cases hb : s.wp.busy
  · simp [hb, one] at this
  · rw [hb, show one true = 1 from rfl] at this
    exact ⟨rfl, one_isSome_eq_zero.1 (by omega), one_isSome_eq_zero.1 (by omega)⟩

theorem State.PortsInOrder.writer_onPort {m : Request} (ho : s.arb.onPort .wp = some m) :
    s.wp.busy = true ∧ s.held = none ∧ s.arb.wpReq = none := by
  have := h.writer
  rw [ho, show one (some m).isSome = 1 from rfl] at this
  cases hb : s.wp.busy
  · simp [hb, one] at this
  · rw [hb, show one true = 1 from rfl] at this
    have hz : one s.held.isSome = 0 := by omega
    exact ⟨rfl, by simpa [one_eq_zero_iff] using hz, one_isSome_eq_zero.1 (by omega)⟩

theorem State.PortsInOrder.consumer_onPort {m : Request} (ho : s.arb.onPort .cp = some m) :
    s.cp.busy = true ∧ s.arb.cpReq = none := by
  have := h.consumer
  rw [ho, show one (some m).isSome = 1 from rfl] at this
  cases hb : s.cp.busy
  · simp [hb, one] at this
  · rw [hb, show one true = 1 from rfl] at this
    exact ⟨rfl, one_isSome_eq_zero.1 (by omega)⟩

/-- With an access on MP no grant waits (R111). -/
theorem State.PortsInOrder.granted_of_mp {o : Outstanding} (hm : s.arb.mp = some o) : s.arb.granted = none := by
  cases hg : s.arb.granted with
  | none => rfl
  | some g =>
    have := h.cancelled (h.waiting (by rw [hg]; rfl))
    cases hm.symm.trans this

theorem State.PortsInOrder.mp_of_granted (hg : s.arb.granted.isSome = true) : s.arb.mp = none :=
  h.cancelled (h.waiting hg)

end

/-- The access of the writer changes its place, or ends. -/
theorem State.PortsInOrder.writer_moves (h : s.PortsInOrder) (hr : t.resetN = true) (hcp : t.cp.busy = s.cp.busy)
    (hreq : t.arb.cpReq = s.arb.cpReq) (hm : t.arb.mp.map Outstanding.access = s.arb.mp.map Outstanding.access)
    (hg : t.arb.granted = s.arb.granted) (hx : t.arb.cancel = s.arb.cancel)
    (hw : one t.held.isSome + one t.arb.wpReq.isSome + one (s.arb.onPort .wp).isSome = one t.wp.busy) : t.PortsInOrder := by
  have hnone : t.arb.mp = none ↔ s.arb.mp = none := by
    rw [← Option.map_eq_none_iff (f := Outstanding.access), hm, Option.map_eq_none_iff]
  obtain ⟨-, h2, h3, h4, -⟩ := h
  constructor
  · rw [onPort_congr hm hg]; exact hw
  · rw [onPort_congr hm hg, hreq, hcp]; exact h2
  · rw [hx, hnone]; exact h3
  · rw [hg, hx]; exact h4
  · intro hl; cases hr.symm.trans hl

/-- The access of the consumer changes its place, or ends. -/
theorem State.PortsInOrder.consumer_moves (h : s.PortsInOrder) (hr : t.resetN = true) (hwp : t.wp.busy = s.wp.busy)
    (hheld : t.held = s.held) (hreq : t.arb.wpReq = s.arb.wpReq)
    (hm : t.arb.mp.map Outstanding.access = s.arb.mp.map Outstanding.access) (hg : t.arb.granted = s.arb.granted)
    (hx : t.arb.cancel = s.arb.cancel) (hc : one t.arb.cpReq.isSome + one (s.arb.onPort .cp).isSome = one t.cp.busy) :
    t.PortsInOrder := by
  have hnone : t.arb.mp = none ↔ s.arb.mp = none := by
    rw [← Option.map_eq_none_iff (f := Outstanding.access), hm, Option.map_eq_none_iff]
  obtain ⟨h1, -, h3, h4, -⟩ := h
  constructor
  · rw [onPort_congr hm hg, hheld, hreq, hwp]; exact h1
  · rw [onPort_congr hm hg]; exact hc
  · rw [hx, hnone]; exact h3
  · rw [hg, hx]; exact h4
  · intro hl; cases hr.symm.trans hl

/-- R107, R111. -/
theorem State.PortsInOrder.grant {w : Requester} {q : Request} (n : Nat) (h : s.PortsInOrder) (hr : s.resetN = true)
    (hm : s.arb.mp = none) (hg : s.arb.granted = none) (hw : s.arb.request w = some q) :
    ({ s with arb := s.arb.grant w q n } : State).PortsInOrder := by
  obtain ⟨h1, h2, h3, h4, -⟩ := h
  rw [onPort_of_idle hm hg] at h1 h2
  have hwp : (s.arb.grant w q n).wpReq = if w = .wp then none else s.arb.wpReq := rfl
  have hcp : (s.arb.grant w q n).cpReq = if w = .cp then none else s.arb.cpReq := rfl
  constructor
  · rw [onPort_grant, hwp, ← h1]
    cases w
    case wp => rw [show s.arb.wpReq = some q from hw]; rfl
    all_goals rfl
  · rw [onPort_grant, hcp, ← h2]
    cases w
    case cp => rw [show s.arb.cpReq = some q from hw]; rfl
    all_goals rfl
  · intro hc; exact if_pos hc
  · intro hs
    by_contra hc
    have hs : (if s.arb.cancel then some ({ who := w, req := q } : Granted) else none).isSome = true := hs
    have hc : ¬s.arb.cancel = true := hc
    rw [if_neg hc] at hs
    cases hs
  · intro hl; cases hr.symm.trans hl

/-- R111, R172. -/
theorem State.PortsInOrder.endCancel (h : s.PortsInOrder) (hr : s.resetN = true) : s.endCancel.PortsInOrder := by
  have hon := fun r => onPort_endCancel (r := r) s.memTimeout.toNat h.mp_of_granted
  have hwp : s.endCancel.arb.wpReq = s.arb.wpReq := request_endCancel (r := .wp) s.memTimeout.toNat
  have hcp : s.endCancel.arb.cpReq = s.arb.cpReq := request_endCancel (r := .cp) s.memTimeout.toNat
  have hgranted : s.endCancel.arb.granted = none := by
    unfold State.endCancel Arbiter.endCancel
    cases s.arb.granted <;> rfl
  have hcancel : s.endCancel.arb.cancel = false := by
    unfold State.endCancel Arbiter.endCancel
    cases s.arb.granted <;> rfl
  constructor
  · rw [hwp, show s.endCancel.arb.onPort .wp = s.arb.onPort .wp from hon .wp]; exact h.writer
  · rw [hcp, show s.endCancel.arb.onPort .cp = s.arb.onPort .cp from hon .cp]; exact h.consumer
  · intro hc; cases hcancel.symm.trans hc
  · intro hc; simp [hgranted] at hc
  · intro hl; cases hr.symm.trans hl

/-- The access on MP leaves it: the port of its owner is answered, and the drain engine may ask for its next write. -/
theorem State.PortsInOrder.leaves {o : Outstanding} (h : s.PortsInOrder) (hr : t.resetN = true) (hm : s.arb.mp = some o)
    (hmp : t.arb.mp = none) (hg : t.arb.granted = s.arb.granted) (hheld : t.held = s.held) (hwr : t.arb.wpReq = s.arb.wpReq)
    (hcr : t.arb.cpReq = s.arb.cpReq) (hw : t.wp.busy = if o.who = .wp then false else s.wp.busy)
    (hc : t.cp.busy = if o.who = .cp then false else s.cp.busy) : t.PortsInOrder := by
  have hgn := h.granted_of_mp hm
  have hon : ∀ r, t.arb.onPort r = none := fun r => onPort_of_idle hmp (hg.trans hgn)
  have h1 := h.writer
  have h2 := h.consumer
  rw [onPort_of_mp hm] at h1 h2
  constructor
  · rw [hon, hheld, hwr, hw]
    by_cases ho : o.who = .wp
    · have hp := h.writer_onPort (m := o.req) (by rw [onPort_of_mp hm, if_pos ho])
      rw [if_pos ho, hp.2.1, hp.2.2]; rfl
    · rw [if_neg ho] at h1 ⊢; exact h1
  · rw [hon, hcr, hc]
    by_cases ho : o.who = .cp
    · have hp := h.consumer_onPort (m := o.req) (by rw [onPort_of_mp hm, if_pos ho])
      rw [if_pos ho, hp.2]; rfl
    · rw [if_neg ho] at h2 ⊢; exact h2
  · exact fun _ => hmp
  · intro hs; simp [hg, hgn] at hs
  · intro hl; cases hr.symm.trans hl

end Sys2Proof.Machine
end

section
/-! SUPPORT. The order of the drain engine (R95, R96, R98, R99). -/

namespace Sys2Proof.Machine

variable {s t : State}

/-! ### The drain engine (R95, R96, R98) -/

/-- What the order of the engine reads of an element, but for its fence. -/
def Element.place (e : Element) : Dom × Phase := (e.dom, e.phase)

/-- The drain writes presented, granted and on MP, counted. -/
def Arbiter.drainWrites (a : Arbiter) : Nat := one a.drainReq.isSome + one (a.onPort .drain).isSome

theorem drainWrites_eq_zero {a : Arbiter} : a.drainWrites = 0 ↔ a.drainReq = none ∧ a.onPort .drain = none := by
  unfold Arbiter.drainWrites
  rw [Nat.add_eq_zero_iff, one_isSome_eq_zero, one_isSome_eq_zero]

theorem draining_head_iff (q : List Element) :
    (∃ e rest, q = e :: rest ∧ e.phase = .draining) ↔ (q.map Element.place).head?.map Prod.snd = some Phase.draining := by
  cases q <;> simp [Element.place]

/-- A change that leaves the engine, the phases and the bank of the head element, and at most moves its write. -/
theorem State.EngineInOrder.of_places (h : s.EngineInOrder) (hg : t.engine = s.engine)
    (hq : t.queue.map Element.place = s.queue.map Element.place)
    (hc : ∀ e ∈ t.queue, e.phase = .draining → e.fence = false) (hn : t.arb.drainWrites = s.arb.drainWrites)
    (ha : ∀ m, t.arb.asked .drain m ↔ s.arb.asked .drain m) (hb : ∀ d, (t.dom d).drainBank = (s.dom d).drainBank) :
    t.EngineInOrder := by
  have hhead : ∀ e rest, t.queue = e :: rest → ∃ k more, s.queue = k :: more ∧ k.dom = e.dom ∧ k.phase = e.phase ∧
      rest.map Element.place = more.map Element.place := by
    intro e rest he
    rw [he, List.map_cons] at hq
    obtain ⟨k, more, hk, h1, h2⟩ := List.map_eq_cons_iff.1 hq.symm
    simp only [Element.place, Prod.mk.injEq] at h1
    exact ⟨k, more, hk, h1.1, h1.2, h2.symm⟩
  constructor
  · rw [hg, h.writing, draining_head_iff, draining_head_iff, hq]
  · intro e rest he x hx
    obtain ⟨k, more, hk, -, -, hmore⟩ := hhead e rest he
    have : x.place ∈ more.map Element.place := hmore ▸ List.mem_map_of_mem hx
    obtain ⟨y, hy, hyx⟩ := List.mem_map.1 this
    exact (congrArg Prod.snd hyx).symm.trans (h.behind k more hk y hy)
  · exact hc
  · intro e rest he hp
    obtain ⟨k, more, hk, hd, hph, -⟩ := hhead e rest he
    rw [hb, ← hd]
    exact hn.trans (h.oneWrite k more hk (hph.trans hp))
  · intro hi
    rw [← drainWrites_eq_zero, hn, drainWrites_eq_zero]
    exact h.noWrite (hg ▸ hi)
  · intro m e rest hm he
    obtain ⟨k, more, hk, hd, -, -⟩ := hhead e rest he
    rw [hb, ← hd]
    exact h.itsWrite m k more ((ha m).1 hm) hk

theorem drainWrites_congr {a b : Arbiter} (hr : b.drainReq = a.drainReq) (ho : b.onPort .drain = a.onPort .drain) :
    b.drainWrites = a.drainWrites := by rw [Arbiter.drainWrites, Arbiter.drainWrites, hr, ho]

/-- With no drain write asked for and no element DRAINING the engine is IDLE and in order. -/
theorem engineInOrder_of_idle (hi : t.engine = .idle) (hq : ∀ e ∈ t.queue, e.phase = .queued)
    (hr : t.arb.drainReq = none) (ho : t.arb.onPort .drain = none) : t.EngineInOrder := by
  constructor
  · rw [hi]
    refine ⟨fun k => (by cases k), fun ⟨e, rest, he, hp⟩ => ?_⟩
    cases (hq e (by simp [he])).symm.trans hp
  · exact fun e rest he x hx => hq x (by simp [he, hx])
  · intro e he hp; cases (hq e he).symm.trans hp
  · intro e rest he hp; cases (hq e (by simp [he])).symm.trans hp
  · exact fun _ => ⟨hr, ho⟩
  · intro m e rest hm
    rcases hm with hm | hm
    · cases hr.symm.trans hm
    · cases ho.symm.trans hm

/-- An IDLE engine has only QUEUED elements (R96, R98). -/
theorem State.EngineInOrder.queued_of_idle (h : s.EngineInOrder) (hi : s.engine = .idle) : ∀ e ∈ s.queue, e.phase = .queued := by
  intro e he
  cases hq : s.queue with
  | nil => rw [hq] at he; cases he
  | cons k rest =>
    rw [hq] at he
    rcases List.mem_cons.1 he with rfl | he
    · cases hp : e.phase with
      | queued => rfl
      | draining =>
        have := h.writing.2 ⟨e, rest, hq, hp⟩
        rw [hi] at this
        cases this
    · exact h.behind k rest hq e he

theorem State.EngineInOrder.endDrain {e : Element} {rest : List Element} (h : s.EngineInOrder) (hq : s.queue = e :: rest)
    (hp : e.phase = .draining) (hb : (s.dom e.dom).drainBank = []) : (s.endDrain e rest).EngineInOrder := by
  have ho := endDrain_outside (s := s) e rest
  have harb : (s.endDrain e rest).arb = s.arb := by simpa using congrArg State.arb ho
  have hn := h.oneWrite e rest hq hp
  rw [hb, show one (!List.isEmpty ([] : Bank)) = 0 from rfl] at hn
  obtain ⟨h1, h2⟩ := drainWrites_eq_zero.1 hn
  refine engineInOrder_of_idle (by simpa using congrArg State.engine ho) ?_ (by rw [harb, h1]) (by rw [harb, h2])
  rw [show (s.endDrain e rest).queue = rest by simpa using congrArg State.queue ho]
  exact h.behind e rest hq

theorem State.EngineInOrder.commit {d : Dom} {b : Boundary} (h : s.EngineInOrder) (ha : s.StatesAgree)
    (hs : (s.dom d).sched.settling = true) : (s.commit d b).EngineInOrder := by
  have ho := commit_outside (s := s) d b
  have harb : (s.commit d b).arb = s.arb := by simpa using congrArg State.arb ho
  have hengine : (s.commit d b).engine = s.engine := by simpa using congrArg State.engine ho
  have hqueue : (s.commit d b).queue = if s.keptEntries d = [] then s.queue else s.queue ++ [s.epochElement d] := by
    simpa using congrArg State.queue ho
  have hother : ∀ k ∈ s.queue, k.dom ≠ d := by
    simpa [State.elementCount] using ((ha.domains d).settled hs).2
  have hbank : ∀ k ∈ s.queue, ((s.commit d b).dom k.dom).drainBank = (s.dom k.dom).drainBank := fun k hk => by
    rw [eq_otherDom (hother k hk), commit_dom_otherDom]
  have hmem : ∀ k ∈ (s.commit d b).queue, k ∈ s.queue ∨ k = s.epochElement d := fun k hk => by
    rw [hqueue] at hk
    split at hk
    · exact .inl hk
    · simpa using hk
  cases he : s.engine with
  | idle =>
    obtain ⟨h1, h2⟩ := h.noWrite he
    refine engineInOrder_of_idle (hengine.trans he) (fun k hk => ?_) (by rw [harb, h1]) (by rw [harb, h2])
    rcases hmem k hk with hk | rfl
    · exact h.queued_of_idle he k hk
    · rfl
  | writing =>
    obtain ⟨k, rest, hq, hp⟩ := h.writing.1 he
    have hkq : k ∈ s.queue := by simp [hq]
    obtain ⟨more, hmore, hrest⟩ : ∃ more, (s.commit d b).queue = k :: more ∧ ∀ x ∈ more, x ∈ rest ∨ x = s.epochElement d := by
      rw [hqueue, hq]
      split
      · exact ⟨rest, rfl, fun x hx => .inl hx⟩
      · exact ⟨rest ++ [s.epochElement d], rfl, fun x hx => by simpa using hx⟩
    constructor
    · exact ⟨fun _ => ⟨k, more, hmore, hp⟩, fun _ => hengine.trans he⟩
    · intro e l hel x hx
      obtain ⟨-, rfl⟩ := List.cons.inj (hel.symm.trans hmore)
      rcases hrest x hx with hx | rfl
      · exact h.behind k rest hq x hx
      · rfl
    · intro x hx hpx
      rcases hmem x hx with hx | rfl
      · exact h.clear x hx hpx
      · cases hpx
    · intro e l hel _
      obtain ⟨rfl, -⟩ := List.cons.inj (hel.symm.trans hmore)
      rw [harb, hbank _ hkq]
      exact h.oneWrite _ rest hq hp
    · intro hi; cases he.symm.trans (hengine.symm.trans hi)
    · intro m e l hm hel
      obtain ⟨rfl, -⟩ := List.cons.inj (hel.symm.trans hmore)
      rw [hbank _ hkq]
      exact h.itsWrite m _ rest (harb ▸ hm) hq

theorem State.EngineInOrder.beginBank {e : Element} {rest : List Element} (h : s.EngineInOrder) (hq : s.queue = e :: rest)
    (hi : s.engine = .idle) (hf : e.fence = false) : (s.beginBank e rest).EngineInOrder := by
  have hon : (s.beginBank e rest).arb.onPort .drain = none := (h.noWrite hi).2
  have hreq : (s.beginBank e rest).arb.drainReq = (s.dom e.dom).drainBank.head?.map Entry.drainWrite := rfl
  have hqueue : (s.beginBank e rest).queue = { e with phase := .draining } :: rest := rfl
  have hdom : ∀ d, (s.beginBank e rest).dom d = s.dom d := fun d => by cases d <;> rfl
  have hhead : ∀ k l, (s.beginBank e rest).queue = k :: l → k.dom = e.dom ∧ l = rest := fun k l hk => by
    obtain ⟨rfl, rfl⟩ := List.cons.inj (hqueue.symm.trans hk)
    exact ⟨rfl, rfl⟩
  constructor
  · exact ⟨fun _ => ⟨_, _, hqueue, rfl⟩, fun _ => rfl⟩
  · intro k l hk x hx
    obtain ⟨-, rfl⟩ := hhead k l hk
    exact h.behind e _ hq x hx
  · intro x hx hp
    rcases List.mem_cons.1 (hqueue ▸ hx) with rfl | hx
    · exact hf
    · exact h.clear x (by simp [hq, hx]) hp
  · intro k l hk _
    rw [(hhead k l hk).1, hdom, hon, hreq]
    cases (s.dom e.dom).drainBank <;> rfl
  · intro k; cases k
  · intro m k l hm hk
    rw [(hhead k l hk).1, hdom]
    rcases hm with hm | hm
    · have hm : (s.dom e.dom).drainBank.head?.map Entry.drainWrite = some m := hm
      cases hb : (s.dom e.dom).drainBank with
      | nil => simp [hb] at hm
      | cons first bank =>
        rw [hb] at hm
        exact ⟨first, bank, rfl, (Option.some.inj hm).symm⟩
    · cases hon.symm.trans hm

/-- The write of the entry in position 1 is on MP: the head element drains, and its bank holds the entry. -/
theorem State.EngineInOrder.head_of_onPort {m : Request} (h : s.EngineInOrder) (ho : s.arb.onPort .drain = some m) :
    s.arb.drainReq = none ∧ ∃ e rest first bank, s.queue = e :: rest ∧ e.phase = .draining ∧
      (s.dom e.dom).drainBank = first :: bank := by
  have hw : s.engine = .writing := by
    cases he : s.engine with
    | idle => cases (h.noWrite he).2.symm.trans ho
    | writing => rfl
  obtain ⟨e, rest, hq, hp⟩ := h.writing.1 hw
  have hone := h.oneWrite e rest hq hp
  rw [ho, show one (some m).isSome = 1 from rfl] at hone
  cases hb : (s.dom e.dom).drainBank with
  | nil => simp [hb, one] at hone
  | cons first bank =>
    rw [hb, show one (!(first :: bank).isEmpty) = 1 from rfl] at hone
    exact ⟨one_isSome_eq_zero.1 (by omega), e, rest, first, bank, hq, hp, hb⟩

/-- R99: the write of an entry retires it, and the next one is asked for. -/
theorem State.EngineInOrder.retire {a : Arbiter} {m : Request} (lost : Bool) (h : s.EngineInOrder)
    (ho : s.arb.onPort .drain = some m) (ha : a.onPort .drain = none) :
    (({ s with arb := a } : State).retire lost).EngineInOrder := by
  obtain ⟨-, e, rest, first, bank, hq, hp, hb⟩ := h.head_of_onPort ho
  have hq' : ({ s with arb := a } : State).queue = e :: rest := hq
  have hb' : (({ s with arb := a } : State).dom e.dom).drainBank = first :: bank := by
    rw [← hb]; cases e.dom <;> rfl
  have hout := retire_outside lost hq' hb'
  have hbank : ((({ s with arb := a } : State).retire lost).dom e.dom).drainBank = bank :=
    (congrArg Domain.drainBank (retire_uncounted lost hq' hb') :)
  generalize hu : ({ s with arb := a } : State).retire lost = u at *
  have hqueue : u.queue = { e with retired := e.retired + 1 } :: rest := by simpa using congrArg State.queue hout
  have hengine : u.engine = s.engine := by simpa using congrArg State.engine hout
  have harb : u.arb = { a with drainReq := bank.head?.map Entry.drainWrite, drainWait := 0 } := by
    simpa using congrArg State.arb hout
  have hreq : u.arb.drainReq = bank.head?.map Entry.drainWrite := by rw [harb]
  have hon : u.arb.onPort .drain = none := by rw [harb]; exact ha
  have hhead : ∀ k l, u.queue = k :: l → k.dom = e.dom ∧ l = rest := fun k l hk => by
    obtain ⟨rfl, rfl⟩ := List.cons.inj (hqueue.symm.trans hk)
    exact ⟨rfl, rfl⟩
  have hw := h.writing.2 ⟨e, rest, hq, hp⟩
  constructor
  · exact ⟨fun _ => ⟨_, _, hqueue, hp⟩, fun _ => hengine.trans hw⟩
  · intro k l hk x hx
    obtain ⟨-, rfl⟩ := hhead k l hk
    exact h.behind e _ hq x hx
  · intro x hx hpx
    rcases List.mem_cons.1 (hqueue ▸ hx) with rfl | hx
    · exact h.clear e (by simp [hq]) hp
    · exact h.clear x (by simp [hq, hx]) hpx
  · intro k l hk _
    rw [(hhead k l hk).1, hbank, hon, hreq]
    cases bank <;> rfl
  · intro hi; cases hw.symm.trans (hengine.symm.trans hi)
  · intro n k l hn hk
    rw [(hhead k l hk).1, hbank]
    rcases hn with hn | hn
    · have hn : bank.head?.map Entry.drainWrite = some n := hreq ▸ hn
      cases bank with
      | nil => simp at hn
      | cons f more => exact ⟨f, more, rfl, (Option.some.inj hn).symm⟩
    · cases hon.symm.trans hn

end Sys2Proof.Machine
end

section
/-! SUPPORT. The order of the reads and of their fences (R81, R84, R88, R97). -/

namespace Sys2Proof.Machine

variable {s t : State}

/-! ### A read record and its request (R81, R84) -/

section
variable {k : Option ReadRecord} {a b : Arbiter} {r : Requester}

theorem readInOrder_congr (h : readInOrder k a r) (hb : ∀ m, b.asked r m ↔ a.asked r m) : readInOrder k b r := by
  refine ⟨fun x hx => ?_, fun hk m hm => h.2 hk m ((hb m).1 hm)⟩
  obtain ⟨h1, m, hm, h2⟩ := h.1 x hx
  exact ⟨h1, m, (hb m).2 hm, h2⟩

/-- No read record stands while no read is asked for. -/
theorem eq_none_of_readInOrder (h : readInOrder k a r) (hw : ∀ m, a.asked r m → m.write = true) : k = none := by
  cases k with
  | none => rfl
  | some x =>
    obtain ⟨-, m, hm, hr, -⟩ := h.1 x rfl
    cases hr.symm.trans (hw m hm)

theorem readInOrder_none (hw : ∀ m, b.asked r m → m.write = true) : readInOrder none b r :=
  ⟨fun x hx => (by cases hx), fun _ => hw⟩

theorem not_asked (hr : b.request r = none) (ho : b.onPort r = none) (m : Request) : ¬b.asked r m := by
  rintro (h | h)
  · cases hr.symm.trans h
  · cases ho.symm.trans h

/-- A new read, asked of memory with request `m`. -/
theorem readInOrder_some {x : ReadRecord} {m : Request} (hx : x.covered ≠ 0xF) (hm : b.request r = some m)
    (hr : m.write = false) (ha : m.addr = x.addr) (hb : x.path ≠ .passThrough → m.be = 0xF) : readInOrder (some x) b r :=
  ⟨fun y hy => (by cases hy; exact ⟨hx, m, .inl hm, hr, ha, hb⟩), fun hn => (by cases hn)⟩

/-- The one request of a requester. -/
theorem asked_onPort (hr : b.request r = none) {m q : Request} (ho : b.onPort r = some q) (h : b.asked r m) : m = q := by
  rcases h with h | h
  · cases hr.symm.trans h
  · exact (Option.some.inj (ho.symm.trans h)).symm

theorem asked_request {m q : Request} (hr : b.request r = some q) (ho : b.onPort r = none) (h : b.asked r m) : m = q := by
  rcases h with h | h
  · exact (Option.some.inj (hr.symm.trans h)).symm
  · cases ho.symm.trans h

end

/-! ### The order of the reads (R81, R88, R97) -/

/-- The fences of an element of the queue and of the consumer's read agree (R88, R97). -/
def fenceInOrder (k : Option ReadRecord) (e : Element) : Prop :=
  e.fence = true ↔ ∃ x, k = some x ∧ x.fenced = true ∧ x.path = .resolved e.dom

theorem fenceInOrder_none {e : Element} (h : e.fence = false) : fenceInOrder none e := by
  simp [fenceInOrder, h]

theorem fence_of_none {e : Element} (h : fenceInOrder none e) : e.fence = false := by
  simpa [fenceInOrder] using h

/-- What a fence reads of an element. -/
def Element.fencePart (e : Element) : Dom × Bool := (e.dom, e.fence)

theorem fenceInOrder_congr {k : Option ReadRecord} {e f : Element} (h : fenceInOrder k e) (hf : f.fencePart = e.fencePart) :
    fenceInOrder k f := by
  simp only [Element.fencePart, Prod.mk.injEq] at hf
  rw [fenceInOrder, hf.1, hf.2]; exact h

/-- A change that at most moves the requests of the ports and drops elements. -/
theorem State.ReadsInOrder.of_asked (h : s.ReadsInOrder) (hw : t.wpRead = s.wpRead) (hc : t.cpRead = s.cpRead)
    (haw : ∀ m, t.arb.asked .wp m ↔ s.arb.asked .wp m) (hac : ∀ m, t.arb.asked .cp m ↔ s.arb.asked .cp m)
    (hq : ∀ e ∈ t.queue, e.fencePart ∈ s.queue.map Element.fencePart) : t.ReadsInOrder where
  writer := hw ▸ readInOrder_congr h.writer haw
  consumer := hc ▸ readInOrder_congr h.consumer hac
  fences e he := by
    obtain ⟨k, hk, hke⟩ := List.mem_map.1 (hq e he)
    exact hc ▸ fenceInOrder_congr (h.fences k hk) hke.symm
  writerUnfenced := hw ▸ h.writerUnfenced

/-- Another access of the writer. -/
theorem State.ReadsInOrder.writer_moves (h : s.ReadsInOrder) (hc : t.cpRead = s.cpRead) (hq : t.queue = s.queue)
    (hac : ∀ m, t.arb.asked .cp m ↔ s.arb.asked .cp m) (hw : readInOrder t.wpRead t.arb .wp)
    (hu : ∀ k, t.wpRead = some k → k.fenced = false) : t.ReadsInOrder where
  writer := hw
  consumer := hc ▸ readInOrder_congr h.consumer hac
  fences := by rw [hq, hc]; exact h.fences
  writerUnfenced := hu

/-- Another access of the consumer, without a fence. -/
theorem State.ReadsInOrder.consumer_moves (h : s.ReadsInOrder) (hw : t.wpRead = s.wpRead)
    (haw : ∀ m, t.arb.asked .wp m ↔ s.arb.asked .wp m) (hc : readInOrder t.cpRead t.arb .cp)
    (hu : ∀ k, t.cpRead = some k → k.fenced = false) (hq : ∀ e ∈ t.queue, e.fence = false) : t.ReadsInOrder where
  writer := hw ▸ readInOrder_congr h.writer haw
  consumer := hc
  fences e he := by
    constructor
    · intro hf; cases (hq e he).symm.trans hf
    · rintro ⟨x, hx, hf, -⟩; cases (hu x hx).symm.trans hf
  writerUnfenced := hw ▸ h.writerUnfenced

/-! ### The fences (R88, R97) -/

/-- The element with its fence flag cleared, if the read of its domain is fenced (R97). -/
def Element.unfenced (k : Option ReadRecord) (e : Element) : Element :=
  if k.any fun x => x.fenced && decide (x.path = .resolved e.dom) then { e with fence := false } else e

theorem clearFence_eq (x : ReadRecord) : s.clearFence x = { s with queue := s.queue.map (Element.unfenced (some x)) } := by
  unfold State.clearFence
  split
  · next d hf hp =>
    congr 1
    refine List.map_congr_left fun e _ => ?_
    by_cases he : e.dom = d
    · simp [Element.unfenced, hf, hp, he]
    · simp [Element.unfenced, hf, hp, he, Ne.symm he]
  · next hn =>
    have hmap : s.queue.map (Element.unfenced (some x)) = s.queue := by
      refine (List.map_congr_left fun e _ => ?_).trans (List.map_id _)
      refine if_neg fun hk => ?_
      simp only [Option.any_some, Bool.and_eq_true, decide_eq_true_eq] at hk
      exact hn _ hk.1 hk.2
    rw [hmap]

theorem finishCpRead_eq (err : Bool) (mem : Word) : s.finishCpRead err mem = { s with
    cpRead := none
    cp := .answered err (readData err s.cpRead mem)
    queue := s.queue.map (Element.unfenced s.cpRead) } := by
  unfold State.finishCpRead
  cases hk : s.cpRead with
  | none =>
    have hmap : s.queue.map (Element.unfenced none) = s.queue := List.map_id _
    rw [hmap]; rfl
  | some x => exact clearFence_eq x

theorem countError_eq (err : Bool) : s.countError err = { s with devCounters := (s.countError err).devCounters } := by
  cases err <;> rfl

theorem unfenced_dom (k : Option ReadRecord) (e : Element) : (e.unfenced k).dom = e.dom := by
  unfold Element.unfenced; split <;> rfl

theorem unfenced_phase (k : Option ReadRecord) (e : Element) : (e.unfenced k).phase = e.phase := by
  unfold Element.unfenced; split <;> rfl

theorem unfenced_fence_of_clear {k : Option ReadRecord} {e : Element} (h : e.fence = false) : (e.unfenced k).fence = false := by
  unfold Element.unfenced; split
  · rfl
  · exact h

/-- The fence of a read that ends is cleared, and no other was set (R97). -/
theorem unfenced_fence {k : Option ReadRecord} {e : Element} (h : fenceInOrder k e) : (e.unfenced k).fence = false := by
  unfold Element.unfenced
  split
  · rfl
  · next hk =>
    cases hf : e.fence with
    | false => rfl
    | true =>
      obtain ⟨x, hx, h1, h2⟩ := h.1 hf
      simp [hx, h1, h2] at hk

/-- A read of domain `d` with its fence set (R88). -/
def ReadRecord.fencedFor (d : Dom) (x : ReadRecord) : ReadRecord :=
  if x.path = .resolved d then { x with fenced := true } else x

theorem fencedFor_of_ne {d : Dom} {x : ReadRecord} (h : x.path ≠ .resolved d) : x.fencedFor d = x := if_neg h

theorem fencedFor_read (d : Dom) (x : ReadRecord) :
    (x.fencedFor d).addr = x.addr ∧ (x.fencedFor d).path = x.path ∧ (x.fencedFor d).covered = x.covered := by
  unfold ReadRecord.fencedFor
  split <;> exact ⟨rfl, rfl, rfl⟩

/-- R88: a commit point fences the read of its domain, and its element with it. -/
theorem State.ReadsInOrder.commit {d : Dom} {b : Boundary} (h : s.ReadsInOrder) (ha : s.StatesAgree)
    (hs : (s.dom d).sched.settling = true) : (s.commit d b).ReadsInOrder := by
  have ho := commit_outside (s := s) d b
  have harb : (s.commit d b).arb = s.arb := by simpa using congrArg State.arb ho
  have hwp : (s.commit d b).wpRead = s.wpRead := by simpa using congrArg State.wpRead ho
  have hcp : (s.commit d b).cpRead = s.cpRead.map (ReadRecord.fencedFor d) :=
    (by simpa using congrArg State.cpRead ho : (s.commit d b).cpRead = (s.fenceRead d).cpRead).trans rfl
  have hqueue : (s.commit d b).queue = if s.keptEntries d = [] then s.queue else s.queue ++ [s.epochElement d] := by
    simpa using congrArg State.queue ho
  have hother : ∀ k ∈ s.queue, k.dom ≠ d := by
    simpa [State.elementCount] using ((ha.domains d).settled hs).2
  have hold : ∀ e ∈ s.queue, fenceInOrder (s.commit d b).cpRead e := fun e he => by
    have hne := hother e he
    have hf : fenceInOrder s.cpRead e := h.fences e he
    rw [fenceInOrder, hcp]
    refine hf.trans ⟨fun ⟨x, hx, h1, h2⟩ => ⟨x, ?_, h1, h2⟩, fun ⟨y, hy, h1, h2⟩ => ?_⟩
    · have : x.path ≠ .resolved d := fun k => hne (by simpa [h2] using k)
      simp [hx, fencedFor_of_ne this]
    · obtain ⟨x, hx, rfl⟩ := Option.map_eq_some_iff.1 hy
      rw [(fencedFor_read d x).2.1] at h2
      have : x.path ≠ .resolved d := fun k => hne (by simpa [h2] using k)
      rw [fencedFor_of_ne this] at h1
      exact ⟨x, hx, h1, h2⟩
  have hnew : fenceInOrder (s.commit d b).cpRead (s.epochElement d) := by
    have hf : (s.epochElement d).fence = s.cpReads d := rfl
    have hd : (s.epochElement d).dom = d := rfl
    rw [fenceInOrder, hf, hd, hcp]
    unfold State.cpReads
    cases s.cpRead with
    | none => simp
    | some x =>
      by_cases hp : x.path = .resolved d
      · simp [ReadRecord.fencedFor, hp]
      · simp [ReadRecord.fencedFor, hp]
  refine ⟨?_, ?_, fun e he => ?_, ?_⟩
  · rw [hwp, harb]; exact h.writer
  · rw [hcp, harb]
    have hc := h.consumer
    cases hk : s.cpRead with
    | none => rw [hk] at hc; exact hc
    | some x =>
      rw [hk] at hc
      obtain ⟨h1, m, hm, h2, h3, h4⟩ := hc.1 x rfl
      refine ⟨fun y hy => ?_, fun hn => by cases hn⟩
      obtain rfl := Option.some.inj hy
      obtain ⟨e1, e2, e3⟩ := fencedFor_read d x
      rw [e1, e2, e3]
      exact ⟨h1, m, hm, h2, h3, h4⟩
  · rw [hqueue] at he
    split at he
    · exact hold e he
    · rcases List.mem_append.1 he with he | he
      · exact hold e he
      · rw [List.mem_singleton.1 he]; exact hnew
  · rw [hwp]; exact h.writerUnfenced

end Sys2Proof.Machine
end

section
/-! SUPPORT. The order of the entries of the banks, and what the order of banks and ports reads (R3, R4, R17). -/

namespace Sys2Proof.Machine

variable {s t : State}

/-! ### The entries of the banks and the held write (R3, R4, R17) -/

/-- No two entries of a bank have one address, and none has an empty mask. -/
structure Bank.InOrder (b : Bank) : Prop where
  unique : (b.map Entry.addr).Nodup
  masks : ∀ e ∈ b, e.mask ≠ 0

theorem bank_inOrder_nil : Bank.InOrder [] := ⟨List.nodup_nil, by simp⟩

theorem Bank.InOrder.sublist {b c : Bank} (h : b.InOrder) (hc : c.Sublist b) : c.InOrder :=
  ⟨h.unique.sublist (hc.map _), fun e he => h.masks e (hc.subset he)⟩

theorem Bank.InOrder.append {b : Bank} {e : Entry} (h : b.InOrder) (hn : ∀ k ∈ b, k.addr ≠ e.addr) (hm : e.mask ≠ 0) :
    Bank.InOrder (b ++ [e]) := by
  constructor
  · rw [List.map_append, List.map_singleton, List.nodup_append]
    refine ⟨h.unique, List.nodup_singleton _, fun x hx y hy => ?_⟩
    obtain ⟨k, hk, rfl⟩ := List.mem_map.1 hx
    rw [List.mem_singleton.1 hy]
    exact hn k hk
  · intro k hk
    rcases List.mem_append.1 hk with hk | hk
    · exact h.masks k hk
    · rw [List.mem_singleton.1 hk]; exact hm

theorem coalesce_addr (b : Bank) (a : Addr) (be : Lanes) (data : Word) :
    (b.coalesce a be data).map Entry.addr = b.map Entry.addr := by
  rw [Bank.coalesce, List.map_map]
  refine List.map_congr_left fun e _ => ?_
  rw [Function.comp_apply]
  split <;> rfl

theorem or_ne_zero {m l : Lanes} (h : m ≠ 0) : m ||| l ≠ 0 := by
  revert m l; decide

theorem Bank.InOrder.coalesce {b : Bank} (h : b.InOrder) (a : Addr) (be : Lanes) (data : Word) :
    (b.coalesce a be data).InOrder := by
  refine ⟨by rw [coalesce_addr]; exact h.unique, fun e he => ?_⟩
  obtain ⟨k, hk, rfl⟩ := List.mem_map.1 he
  split
  · exact or_ne_zero (h.masks k hk)
  · exact h.masks k hk

/-- What `State.BanksInOrder` says of the entries and of the held write. -/
structure State.EntriesInOrder (s : State) : Prop where
  opens : ∀ d, (s.dom d).openBank.InOrder
  drains : ∀ d, (s.dom d).drainBank.InOrder
  heldNew : ∀ h, s.held = some h → h.reason = .space → ∀ e ∈ (s.dom h.dom).openBank, e.addr ≠ h.addr
  heldEnables : ∀ h, s.held = some h → h.be ≠ 0

theorem banksInOrder_iff : s.BanksInOrder ↔ s.PortsInOrder ∧ s.EngineInOrder ∧ s.ReadsInOrder ∧ s.EntriesInOrder := by
  constructor
  · intro h
    exact ⟨h.ports, h.engine, h.reads, fun d => ⟨h.openUnique d, h.openMasks d⟩, fun d => ⟨h.drainUnique d, h.drainMasks d⟩,
      h.heldNew, h.heldEnables⟩
  · rintro ⟨hp, he, hr, h⟩
    exact
      { ports := hp
        engine := he
        reads := hr
        openUnique := fun d => (h.opens d).unique
        drainUnique := fun d => (h.drains d).unique
        openMasks := fun d => (h.opens d).masks
        drainMasks := fun d => (h.drains d).masks
        heldNew := h.heldNew
        heldEnables := h.heldEnables }

theorem State.BanksInOrder.entries (h : s.BanksInOrder) : s.EntriesInOrder := (banksInOrder_iff.1 h).2.2.2

/-- What the order of the entries reads of the held write. -/
def HeldWrite.want (h : HeldWrite) : Dom × HeldReason × Addr × Lanes := (h.dom, h.reason, h.addr, h.be)

/-- What the order of the entries reads of a domain. -/
def Domain.banks (x : Domain) : Bank × Bank := (x.openBank, x.drainBank)

theorem State.EntriesInOrder.of_eq (h : s.EntriesInOrder) (hb : ∀ d, (t.dom d).banks = (s.dom d).banks)
    (hh : t.held.map HeldWrite.want = s.held.map HeldWrite.want) : t.EntriesInOrder := by
  have ho : ∀ d, (t.dom d).openBank = (s.dom d).openBank := fun d => congrArg Prod.fst (hb d)
  have hd : ∀ d, (t.dom d).drainBank = (s.dom d).drainBank := fun d => congrArg Prod.snd (hb d)
  have hw : ∀ w, t.held = some w → ∃ v, s.held = some v ∧ v.want = w.want := fun w hw => by
    rw [hw, Option.map_some] at hh
    exact Option.map_eq_some_iff.1 hh.symm
  refine ⟨fun d => ho d ▸ h.opens d, fun d => hd d ▸ h.drains d,
    fun w hwt hr e he => ?_, fun w hwt => ?_⟩
  · obtain ⟨v, hv, hvw⟩ := hw w hwt
    simp only [HeldWrite.want, Prod.mk.injEq] at hvw
    obtain ⟨h1, h2, h3, -⟩ := hvw
    rw [ho, ← h1] at he
    exact h3 ▸ h.heldNew v hv (h2.trans hr) e he
  · obtain ⟨v, hv, hvw⟩ := hw w hwt
    simp only [HeldWrite.want, Prod.mk.injEq] at hvw
    exact hvw.2.2.2 ▸ h.heldEnables v hv

/-- The banks of one domain change, and no write is held. -/
theorem State.EntriesInOrder.change (h : s.EntriesInOrder) (d : Dom) (hy : t.dom (otherDom d) = s.dom (otherDom d))
    (ho : (t.dom d).openBank.InOrder) (hd : (t.dom d).drainBank.InOrder) (hh : t.held = none) : t.EntriesInOrder where
  opens := (forall_dom d).2 ⟨ho, hy ▸ h.opens _⟩
  drains := (forall_dom d).2 ⟨hd, hy ▸ h.drains _⟩
  heldNew w hw := by cases hh.symm.trans hw
  heldEnables w hw := by cases hh.symm.trans hw

/-- Banks only lose entries, and the held write keeps its want. -/
theorem State.EntriesInOrder.shrink (h : s.EntriesInOrder) (ho : ∀ d, (t.dom d).openBank.Sublist (s.dom d).openBank)
    (hd : ∀ d, (t.dom d).drainBank.InOrder)
    (hh : ∀ w, t.held = some w → ∃ v, s.held = some v ∧ v.dom = w.dom ∧ v.addr = w.addr ∧ v.be = w.be ∧
      (w.reason = .space → v.reason = .space)) : t.EntriesInOrder where
  opens d := (h.opens d).sublist (ho d)
  drains := hd
  heldNew w hw hr e he := by
    obtain ⟨v, hv, h1, h2, -, h4⟩ := hh w hw
    exact h2 ▸ h.heldNew v hv (h4 hr) e (h1 ▸ (ho _).subset he)
  heldEnables w hw := by
    obtain ⟨v, hv, -, -, h3, -⟩ := hh w hw
    exact h3 ▸ h.heldEnables v hv

/-! ### What the order of banks and ports reads -/

/-- What the order reads of an element. -/
def Element.banksPart (e : Element) : Dom × Phase × Bool := (e.dom, e.phase, e.fence)

/-- What the order reads of the drain engine and the consumer's read. -/
def State.drainSide (s : State) :=
  (s.engine, s.queue.map Element.banksPart, s.cpRead, s.dom0.drainBank, s.dom1.drainBank)

/-- The arbiter but for the requests presented by the upstream ports, the wait counts and the limit. -/
def Arbiter.inner (a : Arbiter) := (a.drainReq, a.mp.map Outstanding.access, a.granted, a.cancel)

theorem State.EngineInOrder.congr (h : s.EngineInOrder) (hs : t.drainSide = s.drainSide) (ha : t.arb.inner = s.arb.inner) :
    t.EngineInOrder := by
  simp only [State.drainSide, Prod.mk.injEq] at hs
  obtain ⟨h1, h2, -, h4, h5⟩ := hs
  simp only [Arbiter.inner, Prod.mk.injEq] at ha
  obtain ⟨a1, a2, a3, -⟩ := ha
  have ho := onPort_congr a2 a3
  have hb : ∀ d, (t.dom d).drainBank = (s.dom d).drainBank := fun d => by cases d <;> assumption
  refine h.of_places h1 ?_ (fun e he hp => ?_) (drainWrites_congr a1 (ho _)) (fun m => asked_congr a1 (ho _)) hb
  · have hq := congrArg (List.map fun k : Dom × Phase × Bool => (k.1, k.2.1)) h2
    rwa [List.map_map, List.map_map] at hq
  · have : e.banksPart ∈ s.queue.map Element.banksPart := h2 ▸ List.mem_map_of_mem he
    obtain ⟨k, hk, hke⟩ := List.mem_map.1 this
    simp only [Element.banksPart, Prod.mk.injEq] at hke
    exact hke.2.2 ▸ h.clear k hk (hke.2.1.trans hp)

theorem fenceParts_of_drainSide (hs : t.drainSide = s.drainSide) :
    ∀ e ∈ t.queue, e.fencePart ∈ s.queue.map Element.fencePart := by
  simp only [State.drainSide, Prod.mk.injEq] at hs
  obtain ⟨-, h2, -, -, -⟩ := hs
  intro e he
  have : e.banksPart ∈ s.queue.map Element.banksPart := h2 ▸ List.mem_map_of_mem he
  obtain ⟨k, hk, hke⟩ := List.mem_map.1 this
  simp only [Element.banksPart, Prod.mk.injEq] at hke
  exact List.mem_map.2 ⟨k, hk, by simp only [Element.fencePart, hke.1, hke.2.2]⟩

/-- What the order of banks and ports reads of the state, but for the open banks and the held write. -/
def State.portsPart (s : State) :=
  (s.resetN, s.wp.busy, s.cp.busy, s.wpRead, s.held.isSome, s.drainSide, s.arb.wpReq, s.arb.cpReq, s.arb.inner)

/-- A change of the open banks and of the held write's record. -/
theorem State.BanksInOrder.of_portsPart (h : s.BanksInOrder) (ht : t.portsPart = s.portsPart) (hn : t.EntriesInOrder) :
    t.BanksInOrder := by
  simp only [State.portsPart, Prod.mk.injEq] at ht
  obtain ⟨h1, h2, h3, h4, h5, hside, h7, h8, hinner⟩ := ht
  obtain ⟨hp, he, hr, -⟩ := banksInOrder_iff.1 h
  have ha := hinner
  simp only [Arbiter.inner, Prod.mk.injEq] at ha
  obtain ⟨a1, a2, a3, a4⟩ := ha
  have hcp : t.cpRead = s.cpRead := congrArg (fun k => k.2.2.1) hside
  have hreq : ∀ r, t.arb.request r = s.arb.request r := fun r => by cases r <;> assumption
  have ho := onPort_congr a2 a3
  exact banksInOrder_iff.2 ⟨hp.of_eq h1 h5 h2 h3 hreq a2 a3 a4, he.congr hside hinner,
    hr.of_asked h4 hcp (fun m => asked_congr (hreq _) (ho _)) (fun m => asked_congr (hreq _) (ho _))
      (fenceParts_of_drainSide hside), hn⟩

/-- What the order of banks and ports reads of the state. -/
def State.banksPart (s : State) :=
  (s.portsPart, s.held.map HeldWrite.want, s.dom0.banks, s.dom1.banks)

/-- What leaves what it reads leaves the order of banks and ports. -/
theorem State.BanksInOrder.congr (h : s.BanksInOrder) (ht : t.banksPart = s.banksPart) : t.BanksInOrder := by
  simp only [State.banksPart, Prod.mk.injEq] at ht
  obtain ⟨h1, h2, h3, h4⟩ := ht
  exact h.of_portsPart h1 (h.entries.of_eq (fun d => by cases d <;> assumption) h2)

/-- The access of the writer changes its place, or ends; the entries change. -/
theorem State.BanksInOrder.writer_moves (h : s.BanksInOrder) (hr : t.resetN = true) (hs : t.drainSide = s.drainSide)
    (hc : t.cp.busy = s.cp.busy) (hreq : t.arb.cpReq = s.arb.cpReq) (ha : t.arb.inner = s.arb.inner)
    (hw : one t.held.isSome + one t.arb.wpReq.isSome + one (s.arb.onPort .wp).isSome = one t.wp.busy)
    (hread : readInOrder t.wpRead t.arb .wp) (hu : ∀ k, t.wpRead = some k → k.fenced = false) (hn : t.EntriesInOrder) :
    t.BanksInOrder := by
  obtain ⟨hp, he, hrd, -⟩ := banksInOrder_iff.1 h
  have hinner := ha
  simp only [Arbiter.inner, Prod.mk.injEq] at ha
  obtain ⟨a1, a2, a3, a4⟩ := ha
  have hcp : t.cpRead = s.cpRead := congrArg (fun k => k.2.2.1) hs
  have hac : ∀ m, t.arb.asked .cp m ↔ s.arb.asked .cp m := fun m => asked_congr hreq (onPort_congr a2 a3 _)
  refine banksInOrder_iff.2 ⟨hp.writer_moves hr hc hreq a2 a3 a4 hw, he.congr hs hinner, ⟨hread, ?_, fun e hm => ?_, hu⟩, hn⟩
  · exact hcp ▸ readInOrder_congr hrd.consumer hac
  · obtain ⟨k, hk, hke⟩ := List.mem_map.1 (fenceParts_of_drainSide hs e hm)
    exact hcp ▸ fenceInOrder_congr (hrd.fences k hk) hke.symm

/-- The access of the consumer changes its place, or ends, and no fence stands. -/
theorem State.BanksInOrder.consumer_moves (h : s.BanksInOrder) (hr : t.resetN = true) (hs : t.drainSide = { s with
      cpRead := t.cpRead }.drainSide) (hn : s.cpRead = none) (hwp : t.wp.busy = s.wp.busy) (hwr : t.wpRead = s.wpRead)
    (hheld : t.held = s.held) (hreq : t.arb.wpReq = s.arb.wpReq) (ha : t.arb.inner = s.arb.inner)
    (ho : ∀ d, (t.dom d).openBank = (s.dom d).openBank)
    (hc : one t.arb.cpReq.isSome + one (s.arb.onPort .cp).isSome = one t.cp.busy)
    (hread : readInOrder t.cpRead t.arb .cp) (hu : ∀ k, t.cpRead = some k → k.fenced = false) : t.BanksInOrder := by
  obtain ⟨hp, he, hrd, hent⟩ := banksInOrder_iff.1 h
  have hinner := ha
  simp only [Arbiter.inner, Prod.mk.injEq] at ha
  obtain ⟨a1, a2, a3, a4⟩ := ha
  have haw : ∀ m, t.arb.asked .wp m ↔ s.arb.asked .wp m := fun m => asked_congr hreq (onPort_congr a2 a3 _)
  have heng : ({ s with cpRead := t.cpRead } : State).EngineInOrder :=
    he.of_places rfl rfl he.clear rfl (fun _ => Iff.rfl) fun d => by cases d <;> rfl
  have hq := fenceParts_of_drainSide hs
  have hdrain : ∀ d, (t.dom d).drainBank = (s.dom d).drainBank := fun d => by
    simp only [State.drainSide, Prod.mk.injEq] at hs
    cases d
    · exact hs.2.2.2.1
    · exact hs.2.2.2.2
  refine banksInOrder_iff.2 ⟨hp.consumer_moves hr hwp hheld hreq a2 a3 a4 hc, heng.congr hs hinner,
    hrd.consumer_moves hwr haw hread hu fun e hm => ?_, hent.of_eq (fun d => Prod.ext (ho d) (hdrain d)) (by rw [hheld])⟩
  obtain ⟨k, hk, hke⟩ := List.mem_map.1 (hq e hm)
  have hf : k.fence = false := fence_of_none (hn ▸ hrd.fences k hk)
  exact (congrArg Prod.snd hke).symm.trans hf

end Sys2Proof.Machine
end

section
/-! SUPPORT. The accesses of the upstream ports keep the order of banks and ports (R8 to R18, R79 to R84, R116). -/

namespace Sys2Proof.Machine

variable {s t : State}

/-! ### The accesses of the writer and of the consumer -/

theorem State.BanksInOrder.wpRead_none (h : s.BanksInOrder) (hr : s.arb.wpReq = none) (ho : s.arb.onPort .wp = none) :
    s.wpRead = none :=
  eq_none_of_readInOrder h.reads.writer fun m hm => absurd hm (not_asked (r := .wp) hr ho m)

theorem State.BanksInOrder.cpRead_none (h : s.BanksInOrder) (hr : s.arb.cpReq = none) (ho : s.arb.onPort .cp = none) :
    s.cpRead = none :=
  eq_none_of_readInOrder h.reads.consumer fun m hm => absurd hm (not_asked (r := .cp) hr ho m)

/-- With nothing asked of memory for the writer, its access becomes the held write, or is answered. -/
theorem State.BanksInOrder.writer_held_or_free (h : s.BanksInOrder) (hq : s.arb.wpReq = none) (ho : s.arb.onPort .wp = none)
    (hr : t.resetN = true) (hs : t.drainSide = s.drainSide) (hc : t.cp.busy = s.cp.busy) (ha : t.arb = s.arb)
    (hw : t.wpRead = s.wpRead) (hb : t.wp.busy = t.held.isSome) (hn : t.EntriesInOrder) : t.BanksInOrder := by
  have hnone := h.wpRead_none hq ho
  refine h.writer_moves hr hs hc (by rw [ha]) (by rw [ha]) ?_ ?_ (fun k hk => by cases (hw.trans hnone).symm.trans hk) hn
  · rw [ha, hq, ho, hb]; rfl
  · rw [hw, hnone]
    exact readInOrder_none fun m hm => absurd hm (not_asked (r := .wp) (by rw [ha]; exact hq) (by rw [ha, ho]) m)

/-- The writer's access asks memory. -/
theorem State.BanksInOrder.writer_asks {m : Request} (h : s.BanksInOrder) (ho : s.arb.onPort .wp = none)
    (hr : t.resetN = true) (hs : t.drainSide = s.drainSide) (hc : t.cp.busy = s.cp.busy)
    (ha : t.arb = { s.arb with wpReq := some m }) (hh : t.held = none) (hb : t.wp.busy = true)
    (hread : readInOrder t.wpRead t.arb .wp) (hu : ∀ k, t.wpRead = some k → k.fenced = false)
    (hd : ∀ d, t.dom d = s.dom d) : t.BanksInOrder := by
  refine h.writer_moves hr hs hc (by rw [ha]) (by rw [ha]; rfl) ?_ hread hu ?_
  · rw [ha, hh, ho, hb]; rfl
  · exact ⟨fun d => hd d ▸ h.entries.opens d, fun d => hd d ▸ h.entries.drains d,
      fun w hw => (by cases hh.symm.trans hw), fun w hw => (by cases hh.symm.trans hw)⟩

/-- The writer's access asks memory for a write. -/
theorem State.BanksInOrder.writer_writes {m : Request} (h : s.BanksInOrder) (hq : s.arb.wpReq = none)
    (ho : s.arb.onPort .wp = none) (hr : t.resetN = true) (hs : t.drainSide = s.drainSide) (hc : t.cp.busy = s.cp.busy)
    (ha : t.arb = { s.arb with wpReq := some m }) (hm : m.write = true) (hh : t.held = none) (hb : t.wp.busy = true)
    (hw : t.wpRead = s.wpRead) (hd : ∀ d, t.dom d = s.dom d) : t.BanksInOrder := by
  have hnone := hw.trans (h.wpRead_none hq ho)
  have hon : t.arb.onPort .wp = none := by rw [ha]; exact ho
  refine h.writer_asks ho hr hs hc ha hh hb ?_ (fun k hk => by cases hnone.symm.trans hk) hd
  rw [hnone]
  refine readInOrder_none fun n hn => ?_
  rw [asked_request (r := .wp) (q := m) (by rw [ha]; rfl) hon hn, hm]

theorem State.BanksInOrder.releaseHeld {w : HeldWrite} (h : s.BanksInOrder) (hr : s.resetN = true) (hh : s.held = some w) :
    (s.releaseHeld w).BanksInOrder := by
  obtain ⟨hb, hq, ho⟩ := h.ports.writer_held hh
  exact h.writer_writes hq ho hr rfl rfl rfl rfl rfl hb rfl fun d => by cases d <;> rfl

theorem resetN_of_wpAccepts (h : s.wpAccepts = true) : s.resetN = true ∧ s.wp.busy = false := by
  simpa [State.wpAccepts] using h

theorem resetN_of_cpAccepts (h : s.cpAccepts = true) : s.resetN = true ∧ s.cp.busy = false := by
  simpa [State.cpAccepts] using h

/-- R81, R84. -/
theorem State.BanksInOrder.startWpRead {x : ReadRecord} {m : Request} (h : s.BanksInOrder) (hw : s.wpAccepts = true)
    (hx : x.fenced = false) (hr : m.write = false) (ha : m.addr = x.addr) (hb : x.path ≠ .passThrough → m.be = 0xF) :
    (s.acceptWp.startWpRead x m).BanksInOrder := by
  obtain ⟨hreset, hbusy⟩ := resetN_of_wpAccepts hw
  obtain ⟨hh, hq, ho⟩ := h.ports.writer_free hbusy
  by_cases hc : x.covered = 0xF
  · rw [State.startWpRead, if_pos hc]
    refine h.congr ?_
    simp only [State.banksPart, State.portsPart, hbusy]
    rfl
  · rw [State.startWpRead, if_neg hc]
    refine h.writer_asks (m := m) ho hreset rfl rfl rfl hh rfl (readInOrder_some hc rfl hr ha hb) (fun k hk => ?_)
      fun d => by cases d <;> rfl
    rw [← Option.some.inj hk]; exact hx

theorem State.BanksInOrder.startCpRead {x : ReadRecord} {m : Request} (h : s.BanksInOrder) (hw : s.cpAccepts = true)
    (hx : x.fenced = false) (hr : m.write = false) (ha : m.addr = x.addr) (hb : x.path ≠ .passThrough → m.be = 0xF) :
    (s.acceptCp.startCpRead x m).BanksInOrder := by
  obtain ⟨hreset, hbusy⟩ := resetN_of_cpAccepts hw
  obtain ⟨hq, ho⟩ := h.ports.consumer_free hbusy
  by_cases hc : x.covered = 0xF
  · rw [State.startCpRead, if_pos hc]
    refine h.congr ?_
    simp only [State.banksPart, State.portsPart, hbusy]
    rfl
  · rw [State.startCpRead, if_neg hc]
    refine h.consumer_moves hreset rfl (h.cpRead_none hq ho) rfl rfl rfl rfl rfl (fun d => by cases d <;> rfl) ?_
      (readInOrder_some hc rfl hr ha hb) (fun k hk => ?_)
    · rw [ho]; rfl
    · rw [← Option.some.inj hk]; exact hx

theorem State.BanksInOrder.consumer_writes (a : Addr) (be : Lanes) (data : Word) (h : s.BanksInOrder)
    (hw : s.cpAccepts = true) :
    (s.acceptCp.presentCp { write := true, addr := a, be := be, data := data }).BanksInOrder := by
  obtain ⟨hreset, hbusy⟩ := resetN_of_cpAccepts hw
  obtain ⟨hq, ho⟩ := h.ports.consumer_free hbusy
  have hnone := h.cpRead_none hq ho
  have hon : (s.acceptCp.presentCp { write := true, addr := a, be := be, data := data }).arb.onPort .cp = none := ho
  refine h.consumer_moves hreset rfl hnone rfl rfl rfl rfl rfl (fun d => by cases d <;> rfl) ?_ ?_
    (fun k hk => by cases hnone.symm.trans hk)
  · rw [ho]; rfl
  · rw [show (s.acceptCp.presentCp { write := true, addr := a, be := be, data := data }).cpRead = none from hnone]
    refine readInOrder_none fun n hn => ?_
    rw [asked_request (r := .cp) rfl hon hn]

/-! ### The window writes -/

theorem request_banksPart (d : Dom) (c : Cause) : (s.request d c).banksPart = s.banksPart := by
  have hm : ∀ u : State, (u.noteMerge d).banksPart = u.banksPart := fun u => by cases d <;> rfl
  rcases request_cases s d c with e | ⟨-, ⟨-, -, -, e⟩ | ⟨-, e⟩ | ⟨b, -, e⟩ | ⟨b, g, l, -, e⟩⟩ <;> rw [e]
  · cases d <;> rfl
  · cases d <;> rfl
  · rw [hm]; cases d <;> rfl
  · rw [hm]; cases d <;> rfl

/-- The writer's access is placed as a new entry, and answered (R3, R10, R17). -/
theorem State.BanksInOrder.placed {u : State} {d : Dom} {a : Addr} {be : Lanes} {data : Word} (h : s.BanksInOrder)
    (hp : u.Placed t d a be data) (hu : ({ u with wp := s.wp, held := s.held } : State) = s) (hr : s.resetN = true)
    (hq : s.arb.wpReq = none) (ho : s.arb.onPort .wp = none) (hh : t.held = none)
    (hn : ∀ e ∈ (s.dom d).openBank, e.addr ≠ a) (hbe : be ≠ 0) : t.BanksInOrder := by
  have hdom : ∀ e, u.dom e = s.dom e := fun e => by rw [← hu]; cases e <;> rfl
  have hf := hp.frame
  have hdrain : ∀ e, (t.dom e).drainBank = (s.dom e).drainBank :=
    (forall_dom d).2 ⟨by rw [← hdom]; exact (congrArg Domain.drainBank hp.domain :), by rw [hp.others, hdom]⟩
  have hside : t.drainSide = s.drainSide := by
    have h1 : t.engine = s.engine := (congrArg State.engine hf :).trans (congrArg State.engine hu :)
    have h2 : t.queue = s.queue := (congrArg State.queue hf :).trans (congrArg State.queue hu :)
    have h3 : t.cpRead = s.cpRead := (congrArg State.cpRead hf :).trans (congrArg State.cpRead hu :)
    have h4 : t.dom0.drainBank = s.dom0.drainBank := hdrain .d0
    have h5 : t.dom1.drainBank = s.dom1.drainBank := hdrain .d1
    simp only [State.drainSide, h1, h2, h3, h4, h5]
  refine h.writer_held_or_free hq ho (((congrArg State.resetN hf :).trans (congrArg State.resetN hu :)).trans hr) hside
    (congrArg Port.busy ((congrArg State.cp hf :).trans (congrArg State.cp hu :)))
    ((congrArg State.arb hf :).trans (congrArg State.arb hu :))
    ((congrArg State.wpRead hf :).trans (congrArg State.wpRead hu :)) (by rw [hp.answer, hh]; rfl)
    (h.entries.change d (hp.others.trans (hdom _)) ?_ (hdrain d ▸ h.entries.drains d) hh)
  rw [hp.bank, hdom]
  exact (h.entries.opens d).append hn hbe

/-- The writer's access becomes the held write (R16). -/
theorem State.BanksInOrder.held {w : HeldWrite} (h : s.BanksInOrder) (hw : s.Held t w) (hr : s.resetN = true)
    (hb : s.wp.busy = false) (hbe : w.be ≠ 0)
    (hn : w.reason = .space → ∀ e ∈ (s.dom w.dom).openBank, e.addr ≠ w.addr) : t.BanksInOrder := by
  obtain ⟨-, hq, ho⟩ := h.ports.writer_free hb
  have hf := hw.frame
  have hx := hw.domain
  have hbanks : ∀ d, (t.dom d).banks = (s.dom d).banks := (forall_dom w.dom).2 ⟨by rw [← hx]; rfl, by rw [hw.others]⟩
  have hside : t.drainSide = s.drainSide := by
    have h1 : t.engine = s.engine := (congrArg State.engine hf :)
    have h2 : t.queue = s.queue := (congrArg State.queue hf :)
    have h3 : t.cpRead = s.cpRead := (congrArg State.cpRead hf :)
    have h4 : t.dom0.drainBank = s.dom0.drainBank := congrArg Prod.snd (hbanks .d0)
    have h5 : t.dom1.drainBank = s.dom1.drainBank := congrArg Prod.snd (hbanks .d1)
    simp only [State.drainSide, h1, h2, h3, h4, h5]
  have hopen : ∀ d, (t.dom d).openBank = (s.dom d).openBank := fun d => congrArg Prod.fst (hbanks d)
  have hdrain : ∀ d, (t.dom d).drainBank = (s.dom d).drainBank := fun d => congrArg Prod.snd (hbanks d)
  refine h.writer_held_or_free hq ho ((congrArg State.resetN hf :).trans hr) hside
    (congrArg Port.busy (congrArg State.cp hf :)) (congrArg State.arb hf :) (congrArg State.wpRead hf :)
    (by rw [hw.port, hw.record]; rfl) ⟨fun d => hopen d ▸ h.entries.opens d, fun d => hdrain d ▸ h.entries.drains d, ?_, ?_⟩
  · intro v hv hs e he
    rw [hw.record] at hv
    cases hv
    exact hn hs e (hopen _ ▸ he)
  · intro v hv
    rw [hw.record] at hv
    cases hv
    exact hbe

theorem coalesceEntry_noteWrite (d : Dom) (a : Addr) (be : Lanes) (data : Word) :
    ((s.coalesceEntry d a be data).dom d).openBank = (s.dom d).openBank.coalesce a be data ∧
      ((s.coalesceEntry d a be data).dom d).drainBank = (s.dom d).drainBank ∧
      (s.coalesceEntry d a be data).dom (otherDom d) = s.dom (otherDom d) ∧
      (s.coalesceEntry d a be data).drainSide = s.drainSide := by
  have hn : ∀ u : State, (u.noteWrite d a).drainSide = u.drainSide := by
    intro u; unfold State.noteWrite; split <;> rfl
  refine ⟨?_, ?_, ?_, ?_⟩
  · simp [State.coalesceEntry, bump_dom]
  · simp [State.coalesceEntry, bump_dom]
  · simp [State.coalesceEntry]
  · rw [State.coalesceEntry, hn]; cases d <;> rfl

theorem State.BanksInOrder.windowWrite {d : Dom} {a : Addr} (be : Lanes) (data : Word) (h : s.BanksInOrder)
    (hw : s.wpAccepts = true) (hc : s.classify a = some d) : (s.acceptWp.windowWrite d a be data).BanksInOrder := by
  obtain ⟨hr, hbusy⟩ := resetN_of_wpAccepts hw
  obtain ⟨hh, hq, ho⟩ := h.ports.writer_free hbusy
  have hheld : ∀ r : HeldReason, be ≠ 0 → (r = .space → ∀ e ∈ (s.dom d).openBank, e.addr ≠ a) →
      (s.acceptWp.hold d r a be data).BanksInOrder := fun r hbe hn => h.held (hold_held d r a be data) hr hbusy hbe hn
  rcases windowWrite_cases be data hc with
    ⟨-, e⟩ | ⟨hbe, ⟨-, e⟩ | ⟨-, e⟩ | ⟨-, e | ⟨hn, ⟨hroom, e⟩ | e | e | e⟩⟩⟩ <;> rw [e]
  · exact h.writer_held_or_free hq ho hr rfl rfl rfl rfl (by rw [show (s.answerWp false 0).held = none from hh]; rfl)
      (h.entries.of_eq (fun d => by cases d <;> rfl) rfl)
  · exact hheld _ hbe (by simp)
  · exact hheld _ hbe (by simp)
  · obtain ⟨h1, h2, h3, h4⟩ := coalesceEntry_noteWrite (s := s.acceptWp) d a be data
    have hnone : (s.acceptWp.coalesceEntry d a be data).held = none := by
      simpa [State.coalesceEntry] using hh
    refine h.writer_held_or_free hq ho (by simpa [State.coalesceEntry] using hr) h4 (by simp [State.coalesceEntry])
      (by simp [State.coalesceEntry]) (by simp [State.coalesceEntry]) ?_ ?_
    · rw [show ((s.acceptWp.coalesceEntry d a be data).answerWp false 0).held = none from hnone]; rfl
    · refine h.entries.change d ?_ ?_ ?_ hnone
      · rw [answerWp_dom, h3, acceptWp_dom]
      · rw [answerWp_dom, h1, acceptWp_dom]; exact (h.entries.opens d).coalesce a be data
      · rw [answerWp_dom, h2, acceptWp_dom]; exact h.entries.drains d
  · simp only [State.hasRoom, Bool.and_eq_true, decide_eq_true_eq] at hroom
    exact h.placed (appendEntry_placed d a be data hroom.2) rfl hr hq ho (by simpa [State.appendEntry] using hh) hn hbe
  · exact hheld _ hbe fun _ => hn
  · exact (hheld _ hbe fun _ => hn).congr (request_banksPart d .fill)
  · refine h.writer_held_or_free hq ho (by simpa using hr) (by cases d <;> rfl) (by cases d <;> rfl) (by cases d <;> rfl)
      (by cases d <;> rfl) ?_ (h.entries.of_eq (fun k => by cases d <;> cases k <;> rfl) (by cases d <;> rfl))
    rw [show (((s.acceptWp.bump d .writeFails 1).raise (.dom d .writeFail)).answerWp true 0).held = none by simpa using hh]
    rfl

end Sys2Proof.Machine
end

section
/-! SUPPORT. The grant and the answer to a drain write keep the order of banks and ports (R99, R107, R111). -/

namespace Sys2Proof.Machine

variable {s t : State}

/-! ### The memory port -/

theorem State.BanksInOrder.grant {w : Requester} {q : Request} (n : Nat) (h : s.BanksInOrder) (hr : s.resetN = true)
    (hm : s.arb.mp = none) (hg : s.arb.granted = none) (hw : s.arb.request w = some q) :
    ({ s with arb := s.arb.grant w q n } : State).BanksInOrder := by
  obtain ⟨hp, he, hrd, hn⟩ := banksInOrder_iff.1 h
  have hdom : ∀ d, ({ s with arb := s.arb.grant w q n } : State).dom d = s.dom d := fun d => by cases d <;> rfl
  have hasked : ∀ r m, (s.arb.grant w q n).asked r m ↔ s.arb.asked r m := fun r m => asked_grant n hm hg hw
  refine banksInOrder_iff.2 ⟨hp.grant n hr hm hg hw, he.of_places rfl rfl he.clear ?_ (hasked .drain)
    (fun d => by rw [hdom]), hrd.of_asked rfl rfl (hasked .wp) (hasked .cp) fun e he => List.mem_map_of_mem he,
    hn.of_eq (fun d => by rw [hdom]) rfl⟩
  have hreq : (s.arb.grant w q n).drainReq = if .drain = w then none else s.arb.drainReq := request_grant (r := .drain) n
  rw [Arbiter.drainWrites, Arbiter.drainWrites, onPort_grant, onPort_of_idle hm hg, hreq]
  by_cases hd : .drain = w
  · subst hd
    rw [show s.arb.drainReq = some q from hw]; rfl
  · simp [hd]

theorem State.BanksInOrder.endCancel (h : s.BanksInOrder) (hr : s.resetN = true) : s.endCancel.BanksInOrder := by
  obtain ⟨hp, he, hrd, hn⟩ := banksInOrder_iff.1 h
  have hon : ∀ r, s.endCancel.arb.onPort r = s.arb.onPort r := fun r => onPort_endCancel _ hp.mp_of_granted
  have hreq : ∀ r, s.endCancel.arb.request r = s.arb.request r := fun r => request_endCancel _
  have hdom : ∀ d, s.endCancel.dom d = s.dom d := fun d => by cases d <;> rfl
  exact banksInOrder_iff.2 ⟨hp.endCancel hr,
    he.of_places rfl rfl he.clear (drainWrites_congr (hreq .drain) (hon _)) (fun m => asked_congr (hreq _) (hon _))
      (fun d => by rw [hdom]),
    hrd.of_asked rfl rfl (fun m => asked_congr (hreq _) (hon _)) (fun m => asked_congr (hreq _) (hon _))
      fun e he => List.mem_map_of_mem he,
    hn.of_eq (fun d => by rw [hdom]) rfl⟩

/-- The access on MP leaves it: what the other requesters have asked for stands. -/
theorem asked_of_leaves {a b : Arbiter} {o : Outstanding} {r : Requester} (hm : a.mp = some o) (hr : o.who ≠ r)
    (hb : b.mp = none) (hg : b.granted = none) (hq : b.request r = a.request r) (m : Request) :
    b.asked r m ↔ a.asked r m :=
  asked_congr hq (by rw [onPort_of_idle hb hg, onPort_of_mp hm, if_neg hr])

section
variable {o : Outstanding} {cancel err : Bool} {mem : Word}

/-- The state of a part whose access on MP has just left it. -/
abbrev State.portFreed (s : State) (cancel : Bool) : State := { s with arb := { s.arb with mp := none, cancel := cancel } }

theorem State.BanksInOrder.drain_answered (h : s.BanksInOrder) (hr : s.resetN = true) (hm : s.arb.mp = some o)
    (ho : o.who = .drain) : ((s.portFreed cancel).retire err).BanksInOrder := by
  obtain ⟨hp, he, hrd, hn⟩ := banksInOrder_iff.1 h
  have hgn := hp.granted_of_mp hm
  have hon : s.arb.onPort .drain = some o.req := by rw [onPort_of_mp hm, if_pos ho]
  obtain ⟨-, e, rest, first, bank, hq, -, hb⟩ := he.head_of_onPort hon
  have hfree : (s.portFreed cancel).arb.onPort .drain = none := onPort_of_idle rfl hgn
  have hengine := he.retire err hon hfree
  have hdom : ∀ d, (s.portFreed cancel).dom d = s.dom d := fun d => by cases d <;> rfl
  have hb' : ((s.portFreed cancel).dom e.dom).drainBank = first :: bank := by rw [hdom]; exact hb
  have hx := retire_uncounted (s := s.portFreed cancel) err hq hb'
  have hy := retire_dom_otherDom (s := s.portFreed cancel) err hq hb'
  have hout := retire_outside (s := s.portFreed cancel) err hq hb'
  rw [hdom] at hx hy
  have harb : ((s.portFreed cancel).retire err).arb = { s.arb with
      mp := none, cancel := cancel, drainReq := bank.head?.map Entry.drainWrite, drainWait := 0 } := by
    simpa using congrArg State.arb hout
  have hqueue : ((s.portFreed cancel).retire err).queue = { e with retired := e.retired + 1 } :: rest := by
    simpa using congrArg State.queue hout
  have hleave : ∀ r, r ≠ .drain → ∀ m, ((s.portFreed cancel).retire err).arb.asked r m ↔ s.arb.asked r m :=
    fun r hne => asked_of_leaves hm (by rw [ho]; exact Ne.symm hne) (by rw [harb]) (by rw [harb]; exact hgn)
      (by rw [harb]; cases r <;> first | rfl | exact absurd rfl hne)
  refine banksInOrder_iff.2 ⟨hp.leaves ?_ hm (by rw [harb]) (by rw [harb]) ?_ (by rw [harb]) (by rw [harb]) ?_ ?_, hengine,
    hrd.of_asked ?_ ?_ (hleave _ (by decide)) (hleave _ (by decide)) ?_, hn.shrink ?_ ?_ ?_⟩
  · rw [retire_resetN]; exact hr
  · simpa using congrArg State.held hout
  · rw [ho, if_neg (by decide)]; exact congrArg Port.busy (by simpa using congrArg State.wp hout)
  · rw [ho, if_neg (by decide)]; exact congrArg Port.busy (by simpa using congrArg State.cp hout)
  · simpa using congrArg State.wpRead hout
  · simpa using congrArg State.cpRead hout
  · rw [hqueue]
    intro k hk
    rcases List.mem_cons.1 hk with rfl | hk
    · exact List.mem_map.2 ⟨e, by simp [hq], rfl⟩
    · exact List.mem_map.2 ⟨k, by simp [hq, hk], rfl⟩
  · refine (forall_dom e.dom).2 ⟨?_, by rw [hy]⟩
    rw [show (((s.portFreed cancel).retire err).dom e.dom).openBank = (s.dom e.dom).openBank from
      (congrArg Domain.openBank hx :)]
  · refine (forall_dom e.dom).2 ⟨?_, by rw [hy]; exact hn.drains _⟩
    rw [show (((s.portFreed cancel).retire err).dom e.dom).drainBank = bank from (congrArg Domain.drainBank hx :)]
    exact (hn.drains e.dom).sublist (hb ▸ List.sublist_cons_self ..)
  · intro w hw
    exact ⟨w, (by simpa using congrArg State.held hout : ((s.portFreed cancel).retire err).held = s.held) ▸ hw,
      rfl, rfl, rfl, id⟩

/-- An upstream access is answered from MP: its port is free, its read record is gone, and its fence is cleared. -/
theorem State.BanksInOrder.upstream_answered {k : Option ReadRecord} (h : s.BanksInOrder)
    (hm : s.arb.mp = some o) (ht : t.resetN = true) (ha : t.arb = { s.arb with mp := none, cancel := cancel })
    (hw : t.wp.busy = if o.who = .wp then false else s.wp.busy) (hc : t.cp.busy = if o.who = .cp then false else s.cp.busy)
    (hq : t.queue = s.queue.map (Element.unfenced k)) (hdr : o.who ≠ .drain) (hheld : t.held = s.held)
    (hd : ∀ d, t.dom d = s.dom d) (he : t.engine = s.engine)
    (hreads : t.ReadsInOrder) : t.BanksInOrder := by
  obtain ⟨hp, heng, -, hn⟩ := banksInOrder_iff.1 h
  have hgn := hp.granted_of_mp hm
  have hdrain : ∀ m, t.arb.asked .drain m ↔ s.arb.asked .drain m :=
    asked_of_leaves hm hdr (by rw [ha]) (by rw [ha]; exact hgn) (by rw [ha]; rfl)
  refine banksInOrder_iff.2 ⟨hp.leaves ht hm (by rw [ha]) (by rw [ha]) hheld (by rw [ha]) (by rw [ha]) hw hc,
    heng.of_places he ?_ ?_ (drainWrites_congr (by rw [ha]) ?_) hdrain (fun d => by rw [hd]), hreads,
    hn.of_eq (fun d => by rw [hd]) (by rw [hheld])⟩
  · rw [hq, List.map_map]
    exact List.map_congr_left fun e _ => Prod.ext (unfenced_dom k e) (unfenced_phase k e)
  · intro e hem hph
    rw [hq] at hem
    obtain ⟨f, hf, rfl⟩ := List.mem_map.1 hem
    rw [unfenced_phase] at hph
    exact unfenced_fence_of_clear (heng.clear f hf hph)
  · rw [onPort_of_idle (by rw [ha]) (by rw [ha]; exact hgn), onPort_of_mp hm, if_neg hdr]

end

end Sys2Proof.Machine
end

section
/-! SUPPORT. Memory's answers, the epochs and the drain keep the order of banks and ports (R84, R93, R97, R102). -/

namespace Sys2Proof.Machine

variable {s t : State}

/-! ### Memory's answers -/

section
variable {o : Outstanding} {cancel err : Bool} {mem : Word}

/-- A read of the consumer is answered (R84, R93, R97). -/
theorem deliver_cp_read (err : Bool) (mem : Word) (ho : o.who = .cp) (hw : o.req.write = false) :
    s.deliver o err mem = { s with
      cpRead := none
      cp := .answered err (readData err s.cpRead mem)
      queue := s.queue.map (Element.unfenced s.cpRead)
      devCounters := (s.countError err).devCounters } := by
  have hd : s.deliver o err mem = (s.finishCpRead err mem).countError err := by simp [State.deliver, ho, hw]
  rw [hd, finishCpRead_eq]
  cases err <;> rfl

/-- A write of the consumer is answered (R112, R171). -/
theorem deliver_cp_write (err : Bool) (mem : Word) (ho : o.who = .cp) (hw : o.req.write = true) :
    s.deliver o err mem = { s with cp := .answered err 0, devCounters := (s.countError err).devCounters } := by
  have hd : s.deliver o err mem = (s.answerCp err 0).countError err := by simp [State.deliver, ho, hw]
  rw [hd]
  cases err <;> rfl

theorem deliver_wp_read (err : Bool) (mem : Word) (ho : o.who = .wp) (hw : o.req.write = false) :
    s.deliver o err mem = { s with
      wpRead := none
      wp := .answered err (readData err s.wpRead mem)
      devCounters := (s.countError err).devCounters } := by
  have hd : s.deliver o err mem = (s.finishWpRead err mem).countError err := by simp [State.deliver, ho, hw]
  rw [hd]
  cases err <;> rfl

theorem deliver_wp_write (err : Bool) (mem : Word) (ho : o.who = .wp) (hw : o.req.write = true) :
    s.deliver o err mem = { s with wp := .answered err 0, devCounters := (s.countError err).devCounters } := by
  have hd : s.deliver o err mem = (s.answerWp err 0).countError err := by simp [State.deliver, ho, hw]
  rw [hd]
  cases err <;> rfl

/-- What an answer to the consumer leaves: its port free, its record gone, its fence cleared. -/
theorem deliver_cp_eq (err : Bool) (mem : Word) (ho : o.who = .cp) :
    ∃ (a : Answer) (c : Vector Half 3), s.deliver o err mem = { s with
      cpRead := if o.req.write then s.cpRead else none
      cp := { busy := false, answer := some a }
      queue := if o.req.write then s.queue else s.queue.map (Element.unfenced s.cpRead)
      devCounters := c } := by
  cases hw : o.req.write
  · exact ⟨_, _, deliver_cp_read err mem ho hw⟩
  · exact ⟨_, _, deliver_cp_write err mem ho hw⟩

theorem deliver_wp_eq (err : Bool) (mem : Word) (ho : o.who = .wp) :
    ∃ (a : Answer) (c : Vector Half 3), s.deliver o err mem = { s with
      wpRead := if o.req.write then s.wpRead else none
      wp := { busy := false, answer := some a }
      devCounters := c } := by
  cases hw : o.req.write
  · exact ⟨_, _, deliver_wp_read err mem ho hw⟩
  · exact ⟨_, _, deliver_wp_write err mem ho hw⟩

/-- A write on MP carries no read record (R81). -/
theorem State.BanksInOrder.cpRead_of_write (h : s.BanksInOrder) (hm : s.arb.mp = some o) (ho : o.who = .cp)
    (hw : o.req.write = true) : s.cpRead = none := by
  have hon : s.arb.onPort .cp = some o.req := by rw [onPort_of_mp hm, if_pos ho]
  refine eq_none_of_readInOrder h.reads.consumer fun m hma => ?_
  rw [asked_onPort (r := .cp) (h.ports.consumer_onPort hon).2 hon hma, hw]

theorem State.BanksInOrder.wpRead_of_write (h : s.BanksInOrder) (hm : s.arb.mp = some o) (ho : o.who = .wp)
    (hw : o.req.write = true) : s.wpRead = none := by
  have hon : s.arb.onPort .wp = some o.req := by rw [onPort_of_mp hm, if_pos ho]
  refine eq_none_of_readInOrder h.reads.writer fun m hma => ?_
  rw [asked_onPort (r := .wp) (h.ports.writer_onPort hon).2.2 hon hma, hw]

theorem State.BanksInOrder.consumer_answered (h : s.BanksInOrder) (hr : s.resetN = true) (hm : s.arb.mp = some o)
    (ho : o.who = .cp) : ((s.portFreed cancel).deliver o err mem).BanksInOrder := by
  have hgn := h.ports.granted_of_mp hm
  have hon : s.arb.onPort .cp = some o.req := by rw [onPort_of_mp hm, if_pos ho]
  have hna : ∀ m, ¬(s.portFreed cancel).arb.asked .cp m :=
    not_asked (h.ports.consumer_onPort hon).2 (onPort_of_idle rfl hgn)
  obtain ⟨a, c, e⟩ := deliver_cp_eq (s := s.portFreed cancel) err mem ho
  have hnone : (if o.req.write then s.cpRead else none) = none := by
    split
    · next hw => exact h.cpRead_of_write hm ho hw
    · rfl
  have hqueue : (if o.req.write then s.queue else s.queue.map (Element.unfenced s.cpRead)) =
      s.queue.map (Element.unfenced s.cpRead) := by
    split
    · next hw => rw [h.cpRead_of_write hm ho hw]; exact (List.map_id _).symm
    · rfl
  rw [show (if o.req.write then (s.portFreed cancel).cpRead else none) = none from hnone,
    show (if o.req.write then (s.portFreed cancel).queue
      else (s.portFreed cancel).queue.map (Element.unfenced (s.portFreed cancel).cpRead)) =
        s.queue.map (Element.unfenced s.cpRead) from hqueue] at e
  rw [e]
  refine h.upstream_answered hm hr rfl (by rw [ho]; rfl) (by rw [ho]; rfl) rfl (by rw [ho]; decide) rfl
    (fun d => by cases d <;> rfl) rfl ?_
  refine h.reads.consumer_moves rfl (asked_of_leaves hm (by rw [ho]; decide) rfl hgn rfl) ?_ (fun k hk => by cases hk) ?_
  · exact readInOrder_none fun m hma => absurd hma (hna m)
  · intro f hf
    obtain ⟨k, hk, rfl⟩ := List.mem_map.1 hf
    exact unfenced_fence (h.reads.fences k hk)

theorem State.BanksInOrder.writer_answered (h : s.BanksInOrder) (hr : s.resetN = true) (hm : s.arb.mp = some o)
    (ho : o.who = .wp) : ((s.portFreed cancel).deliver o err mem).BanksInOrder := by
  have hgn := h.ports.granted_of_mp hm
  have hon : s.arb.onPort .wp = some o.req := by rw [onPort_of_mp hm, if_pos ho]
  have hna : ∀ m, ¬(s.portFreed cancel).arb.asked .wp m :=
    not_asked (h.ports.writer_onPort hon).2.2 (onPort_of_idle rfl hgn)
  obtain ⟨a, c, e⟩ := deliver_wp_eq (s := s.portFreed cancel) err mem ho
  have hnone : (if o.req.write then s.wpRead else none) = none := by
    split
    · next hw => exact h.wpRead_of_write hm ho hw
    · rfl
  rw [show (if o.req.write then (s.portFreed cancel).wpRead else none) = none from hnone] at e
  rw [e]
  refine h.upstream_answered (k := none) hm hr rfl (by rw [ho]; rfl) (by rw [ho]; rfl) (List.map_id _).symm
    (by rw [ho]; decide) rfl (fun d => by cases d <;> rfl) rfl ?_
  refine h.reads.writer_moves rfl rfl (asked_of_leaves hm (by rw [ho]; decide) rfl hgn rfl) ?_ (fun k hk => by cases hk)
  exact readInOrder_none fun m hma => absurd hma (hna m)

theorem State.BanksInOrder.deliver (h : s.BanksInOrder) (hr : s.resetN = true) (hm : s.arb.mp = some o) :
    ((s.portFreed cancel).deliver o err mem).BanksInOrder := by
  cases ho : o.who with
  | cp => exact h.consumer_answered hr hm ho
  | wp => exact h.writer_answered hr hm ho
  | drain =>
    have : (s.portFreed cancel).deliver o err mem = (s.portFreed cancel).retire err := by simp only [State.deliver, ho]
    rw [this]
    exact h.drain_answered hr hm ho

end

/-! ### The epochs and the drain -/

theorem State.BanksInOrder.endDrain {e : Element} {rest : List Element} (h : s.BanksInOrder) (hq : s.queue = e :: rest)
    (hp : e.phase = .draining) (hb : (s.dom e.dom).drainBank = []) : (s.endDrain e rest).BanksInOrder := by
  have ho := endDrain_outside (s := s) e rest
  have hx := endDrain_dom (s := s) e rest
  have hy := endDrain_dom_otherDom (s := s) e rest
  obtain ⟨hopen, hdrain, -⟩ := drainEnded_banks (s.dom e.dom)
  have harb : (s.endDrain e rest).arb = s.arb := by simpa using congrArg State.arb ho
  have hheld : (s.endDrain e rest).held = s.held := by simpa using congrArg State.held ho
  obtain ⟨hports, heng, hrd, hn⟩ := banksInOrder_iff.1 h
  refine banksInOrder_iff.2 ⟨hports.of_eq (by simpa using congrArg State.resetN ho) (by rw [hheld])
      (congrArg Port.busy (by simpa using congrArg State.wp ho)) (congrArg Port.busy (by simpa using congrArg State.cp ho))
      (fun r => by rw [harb]) (by rw [harb]) (by rw [harb]) (by rw [harb]),
    heng.endDrain hq hp hb,
    hrd.of_asked (by simpa using congrArg State.wpRead ho) (by simpa using congrArg State.cpRead ho)
      (fun m => by rw [harb]) (fun m => by rw [harb]) (fun k hk => ?_),
    hn.of_eq ((forall_dom e.dom).2 ⟨?_, by rw [hy]⟩) (by rw [hheld])⟩
  · rw [show (s.endDrain e rest).queue = rest by simpa using congrArg State.queue ho] at hk
    exact List.mem_map_of_mem (by simp [hq, hk])
  · rw [hx]; exact Prod.ext hopen hdrain

theorem State.BanksInOrder.commit {d : Dom} {b : Boundary} (h : s.BanksInOrder) (ha : s.StatesAgree)
    (hs : (s.dom d).sched.settling = true) : (s.commit d b).BanksInOrder := by
  have ho := commit_outside (s := s) d b
  have hx := commit_uncounted (s := s) d b
  have hy := commit_dom_otherDom (s := s) d b
  have harb : (s.commit d b).arb = s.arb := by simpa using congrArg State.arb ho
  have hheld : (s.commit d b).held = s.held.map fun h =>
      if b.final = true ∧ h.dom = d ∧ h.reason = .space then { h with reason := .flush } else h := by
    simpa using congrArg State.held ho
  have hopen : ((s.commit d b).dom d).openBank = [] := (congrArg Domain.openBank hx :)
  have hdrain : ((s.commit d b).dom d).drainBank = s.keptEntries d := (congrArg Domain.drainBank hx :)
  obtain ⟨hports, heng, hrd, hn⟩ := banksInOrder_iff.1 h
  refine banksInOrder_iff.2 ⟨hports.of_eq (by simpa using congrArg State.resetN ho) (by simp [hheld])
      (congrArg Port.busy (by simpa using congrArg State.wp ho)) (congrArg Port.busy (by simpa using congrArg State.cp ho))
      (fun r => by rw [harb]) (by rw [harb]) (by rw [harb]) (by rw [harb]),
    heng.commit ha hs, hrd.commit ha hs,
    hn.shrink ((forall_dom d).2 ⟨?_, by rw [hy]⟩) ((forall_dom d).2 ⟨?_, by rw [hy]; exact hn.drains _⟩) ?_⟩
  · rw [hopen]; exact List.nil_sublist _
  · rw [hdrain]; exact (hn.opens d).sublist List.filter_sublist
  · intro w hw
    rw [hheld] at hw
    obtain ⟨v, hv, rfl⟩ := Option.map_eq_some_iff.1 hw
    refine ⟨v, hv, ?_⟩
    split
    · exact ⟨rfl, rfl, rfl, fun k => by cases k⟩
    · exact ⟨rfl, rfl, rfl, id⟩

theorem State.BanksInOrder.beginBank {e : Element} {rest : List Element} (h : s.BanksInOrder) (hq : s.queue = e :: rest)
    (hr : s.resetN = true) (hi : s.engine = .idle) (hf : e.fence = false) : (s.beginBank e rest).BanksInOrder := by
  obtain ⟨hports, heng, hrd, hn⟩ := banksInOrder_iff.1 h
  refine banksInOrder_iff.2 ⟨hports.consumer_moves hr rfl rfl rfl rfl rfl rfl hports.consumer, heng.beginBank hq hi hf,
    hrd.of_asked rfl rfl (fun m => asked_congr rfl rfl) (fun m => asked_congr rfl rfl) (fun k hk => ?_),
    hn.of_eq (fun d => by cases d <;> rfl) rfl⟩
  rcases List.mem_cons.1 hk with rfl | hk
  · exact List.mem_map.2 ⟨e, by simp [hq], rfl⟩
  · exact List.mem_map.2 ⟨k, by simp [hq, hk], rfl⟩

theorem State.BanksInOrder.completeRestart (h : s.BanksInOrder) (hr : s.resetN = true) : s.completeRestart.BanksInOrder := by
  have hends : s.restartEnded.BanksInOrder := h.congr rfl
  rw [completeRestart_eq]
  rcases releaseRestart_cases s.restartEnded with ⟨w, hw, -, e⟩ | ⟨-, e⟩ <;> rw [e]
  · exact hends.releaseHeld hr hw
  · exact hends

/-- A part whose blocks are in their reset states (R23, R106, R113). -/
theorem banksInOrder_of_empty (r c : Bool)
    (h : t.banksPart = ({ State.reset with resetN := r, arb := { Arbiter.reset with cancel := c } } : State).banksPart) :
    t.BanksInOrder := by
  refine State.BanksInOrder.congr ?_ h
  refine banksInOrder_iff.2 ⟨?_, engineInOrder_of_idle rfl (fun e he => by cases he) rfl rfl, ?_, ?_⟩
  · exact ⟨rfl, rfl, fun _ => rfl, fun hs => (by cases hs), fun _ => ⟨rfl, rfl, rfl, rfl, rfl⟩⟩
  · have hna : ∀ r m, ¬({ Arbiter.reset with cancel := c } : Arbiter).asked r m := fun r =>
      not_asked (by cases r <;> rfl) (onPort_of_idle rfl rfl)
    exact ⟨readInOrder_none fun m hm => absurd hm (hna _ m), readInOrder_none fun m hm => absurd hm (hna _ m),
      fun e he => (by cases he), fun k hk => (by cases hk)⟩
  · exact ⟨fun d => (by cases d <;> exact bank_inOrder_nil), fun d => (by cases d <;> exact bank_inOrder_nil),
      fun w hw => (by cases hw), fun w hw => (by cases hw)⟩

end Sys2Proof.Machine
end

section
/-! SUPPORT. Every move keeps the order of banks and ports; the orders hold after reset (R3, R98, R170). -/

namespace Sys2Proof.Machine

variable {s t : State}

/-! ### The moves that leave what the order of banks and ports reads -/

theorem updDom_banksPart (d : Dom) {f : Domain → Domain} (hf : (f (s.dom d)).banks = (s.dom d).banks) :
    (s.updDom d f).banksPart = s.banksPart := by
  simp only [Domain.banks, Prod.mk.injEq] at hf
  cases d <;>
    simp only [State.banksPart, State.portsPart, State.drainSide, Domain.banks, State.updDom, State.setDom, State.dom] at * <;>
    simp only [hf]

theorem store_banksPart (p : Param) (v : Word) : (s.store p v).banksPart = s.banksPart := by
  cases p with
  | setting d q => exact updDom_banksPart d (f := fun x => x.writeSetting q v) (by cases q <;> rfl)
  | partId => rfl
  | revision => rfl
  | poolSize => rfl
  | tickDiv => rfl
  | memTimeout => rfl
  | eventEnable => rfl
  | winBase w => rfl
  | winCtrl w => rfl
  | grp g => rfl

theorem expireHold_banksPart (d : Dom) :
    (s.updDom d Domain.expireGroupHold).banksPart = s.banksPart ∧
      (s.updDom d Domain.expireSampleHold).banksPart = s.banksPart := by
  constructor <;> apply updDom_banksPart
  · unfold Domain.expireGroupHold
    split <;> rfl
  · unfold Domain.expireSampleHold
    split <;> rfl

theorem tickLimits_banksPart : s.tickLimits.banksPart = s.banksPart := by
  have hh : (s.held.map fun h => { h with left := h.left - 1 }).map HeldWrite.want = s.held.map HeldWrite.want := by
    cases s.held <;> rfl
  have hs : (s.held.map fun h => { h with left := h.left - 1 }).isSome = s.held.isSome := by simp
  have hm : (s.arb.mp.map fun o => { o with left := o.left - 1 }).map Outstanding.access =
      s.arb.mp.map Outstanding.access := by
    cases s.arb.mp <;> rfl
  simp only [State.banksPart, State.portsPart, State.drainSide, State.tickLimits, Arbiter.inner, hh, hs, hm]
  rfl

theorem State.BanksInOrder.expireHeld {w : HeldWrite} (h : s.BanksInOrder) (hr : s.resetN = true) (hh : s.held = some w) :
    (s.expireHeld w).BanksInOrder := by
  obtain ⟨-, hq, ho⟩ := h.ports.writer_held hh
  have hnone : (s.expireHeld w).held = none := by simp [State.expireHeld]
  refine h.writer_held_or_free hq ho (by simpa [State.expireHeld] using hr) ?_ (by simp [State.expireHeld])
    (by simp [State.expireHeld]) (by simp [State.expireHeld]) (by rw [hnone]; rfl) ?_
  · unfold State.expireHeld; cases w.dom <;> rfl
  · have hb : ∀ d, ((s.expireHeld w).dom d).banks = (s.dom d).banks := fun d => by
      unfold State.expireHeld; cases w.dom <;> cases d <;> rfl
    have ho : ∀ d, ((s.expireHeld w).dom d).openBank = (s.dom d).openBank := fun d => congrArg Prod.fst (hb d)
    have hd : ∀ d, ((s.expireHeld w).dom d).drainBank = (s.dom d).drainBank := fun d => congrArg Prod.snd (hb d)
    exact ⟨fun d => ho d ▸ h.entries.opens d, fun d => hd d ▸ h.entries.drains d,
      fun v hv => (by cases hnone.symm.trans hv), fun v hv => (by cases hnone.symm.trans hv)⟩

theorem State.BanksInOrder.discardOpen (h : s.BanksInOrder) (d : Dom) : (s.discardOpen d).BanksInOrder := by
  refine h.of_portsPart (by cases d <;> rfl) (h.entries.shrink ((forall_dom d).2 ⟨?_, ?_⟩) ((forall_dom d).2 ⟨?_, ?_⟩) ?_)
  · rw [show ((s.discardOpen d).dom d).openBank = [] by cases d <;> rfl]; exact List.nil_sublist _
  · rw [show (s.discardOpen d).dom (otherDom d) = s.dom (otherDom d) by cases d <;> rfl]
  · rw [show ((s.discardOpen d).dom d).drainBank = (s.dom d).drainBank by cases d <;> rfl]; exact h.entries.drains _
  · rw [show (s.discardOpen d).dom (otherDom d) = s.dom (otherDom d) by cases d <;> rfl]; exact h.entries.drains _
  · intro w hw
    exact ⟨w, (by cases d <;> rfl : (s.discardOpen d).held = s.held) ▸ hw, rfl, rfl, rfl, id⟩

theorem State.BanksInOrder.acceptRestart (h : s.BanksInOrder) : s.acceptRestart.BanksInOrder := by
  have hx := fun d => acceptRestart_uncounted (s := s) d
  have hopen : ∀ d, (s.acceptRestart.dom d).openBank = [] := fun d => (congrArg Domain.openBank (hx d) :)
  have hdrain : ∀ d, (s.acceptRestart.dom d).drainBank = (s.dom d).drainBank := fun d => (congrArg Domain.drainBank (hx d) :)
  have hheld : s.acceptRestart.held.isSome = s.held.isSome := by rw [acceptRestart_held, Option.isSome_map]
  refine h.of_portsPart ?_ (h.entries.shrink (fun d => ?_) (fun d => ?_) fun w hw => ?_)
  · simp only [State.portsPart, hheld]; rfl
  · rw [hopen]; exact List.nil_sublist _
  · rw [hdrain]; exact h.entries.drains d
  · rw [acceptRestart_held] at hw
    obtain ⟨v, hv, rfl⟩ := Option.map_eq_some_iff.1 hw
    exact ⟨v, hv, rfl, rfl, rfl, fun k => by cases k⟩

/-! ### Every move -/

/-- The invariant of the banks and the ports, with the order of states that the commit point reads. -/
theorem keptByMoves_banksInOrder : KeptByMoves fun s => s.StatesAgree ∧ s.BanksInOrder where
  pending l h := ⟨keptByMoves_statesAgree.pending l h.1, h.2.congr rfl⟩
  link k h := ⟨keptByMoves_statesAgree.link k h.1, h.2.congr rfl⟩
  time b h := ⟨keptByMoves_statesAgree.time b h.1, h.2.congr rfl⟩
  place {s w} h hh hr hs hroom := by
    refine ⟨keptByMoves_statesAgree.place h.1 hh hr hs hroom, ?_⟩
    simp only [State.hasRoom, Bool.and_eq_true, decide_eq_true_eq] at hroom
    obtain ⟨-, hq, ho⟩ := h.2.ports.writer_held hh
    exact h.2.placed (u := { s with held := none }) (appendEntry_placed w.dom w.addr w.be w.data hroom.2) rfl hr hq ho
      (by simp [State.placeHeld, State.appendEntry]) (h.2.heldNew w hh hs) (h.2.heldEnables w hh)
  drainEnd h hq hr hp hb := ⟨keptByMoves_statesAgree.drainEnd h.1 hq hr hp hb, h.2.endDrain hq hp hb⟩
  commit h hs hr hc := ⟨keptByMoves_statesAgree.commit h.1 hs hr hc, h.2.commit h.1 (by rw [hs]; rfl)⟩
  release h hh hr hs ho := ⟨keptByMoves_statesAgree.release h.1 hh hr hs ho, h.2.releaseHeld hr hh⟩
  begin h hq hr he hp hf := ⟨keptByMoves_statesAgree.begin h.1 hq hr he hp hf, h.2.beginBank hq hr he hf⟩
  restartDone h hr hv hq := ⟨keptByMoves_statesAgree.restartDone h.1 hr hv hq, h.2.completeRestart hr⟩
  grant h hr hm hg hc hw := ⟨keptByMoves_statesAgree.grant h.1 hr hm hg hc hw, h.2.grant _ hr hm hg hw⟩
  deliver cancel err mem h hr hm hc := ⟨keptByMoves_statesAgree.deliver cancel err mem h.1 hr hm hc, h.2.deliver hr hm⟩
  cancelEnds h hr := ⟨keptByMoves_statesAgree.cancelEnds h.1 hr, h.2.endCancel hr⟩
  answersEnd h hr := ⟨keptByMoves_statesAgree.answersEnd h.1 hr, h.2.congr rfl⟩
  windowWrite be data h hw hc := ⟨keptByMoves_statesAgree.windowWrite be data h.1 hw hc, h.2.windowWrite be data hw hc⟩
  writerWritesThrough {s} a be data h hw := by
    refine ⟨keptByMoves_statesAgree.writerWritesThrough a be data h.1 hw, ?_⟩
    obtain ⟨hr, hb⟩ := resetN_of_wpAccepts hw
    obtain ⟨hh, hq, ho⟩ := h.2.ports.writer_free hb
    exact h.2.writer_writes hq ho hr rfl rfl rfl rfl hh rfl rfl fun d => by cases d <;> rfl
  writerReads d a h hw := ⟨keptByMoves_statesAgree.writerReads d a h.1 hw,
    h.2.startWpRead hw rfl rfl rfl fun _ => rfl⟩
  writerReadsThrough a be data h hw := ⟨keptByMoves_statesAgree.writerReadsThrough a be data h.1 hw,
    h.2.startWpRead hw rfl rfl rfl fun k => absurd rfl k⟩
  consumerReads d a h hw := ⟨keptByMoves_statesAgree.consumerReads d a h.1 hw,
    h.2.startCpRead hw rfl rfl rfl fun _ => rfl⟩
  consumerReadsThrough a be data h hw := ⟨keptByMoves_statesAgree.consumerReadsThrough a be data h.1 hw,
    h.2.startCpRead hw rfl rfl rfl fun k => absurd rfl k⟩
  consumerWritesThrough a be data h hw := ⟨keptByMoves_statesAgree.consumerWritesThrough a be data h.1 hw,
    h.2.consumer_writes a be data hw⟩
  consumerRefused {s} d h hw := by
    refine ⟨keptByMoves_statesAgree.consumerRefused d h.1 hw, h.2.congr ?_⟩
    have hb := (resetN_of_cpAccepts hw).2
    have hparts : ({ s.acceptCp.refuseCpWrite d with cp := s.cp } : State).banksPart = s.banksPart := by cases d <;> rfl
    rw [← hparts]
    simp only [State.banksPart, State.portsPart, hb]
    rfl
  timer d h hr ht := ⟨keptByMoves_statesAgree.timer d h.1 hr ht, h.2.congr (updDom_banksPart d rfl)⟩
  request d c h hr hc := ⟨keptByMoves_statesAgree.request d c h.1 hr hc, h.2.congr (request_banksPart d c)⟩
  groupHold d h hr := ⟨keptByMoves_statesAgree.groupHold d h.1 hr, h.2.congr (expireHold_banksPart d).1⟩
  sampleHold d h hr := ⟨keptByMoves_statesAgree.sampleHold d h.1 hr, h.2.congr (expireHold_banksPart d).2⟩
  writeHold h hr hh := ⟨keptByMoves_statesAgree.writeHold h.1 hr hh, h.2.expireHeld hr hh⟩
  epochIn d v h hr := ⟨keptByMoves_statesAgree.epochIn d v h.1 hr, h.2.congr (updDom_banksPart d rfl)⟩
  sampleN d v h hr := ⟨keptByMoves_statesAgree.sampleN d v h.1 hr, h.2.congr (updDom_banksPart d rfl)⟩
  tick h hr := ⟨keptByMoves_statesAgree.tick h.1 hr, h.2.congr tickLimits_banksPart⟩
  assertReset h hr := ⟨keptByMoves_statesAgree.assertReset h.1 hr, banksInOrder_of_empty false true rfl⟩
  released l h hr := ⟨keptByMoves_statesAgree.released l h.1 hr, banksInOrder_of_empty true false rfl⟩
  powerUp s high l := ⟨keptByMoves_statesAgree.powerUp s high l, banksInOrder_of_empty high (!high) rfl⟩
  bumpDev c h := ⟨keptByMoves_statesAgree.bumpDev c h.1, h.2.congr rfl⟩
  linkError h := ⟨keptByMoves_statesAgree.linkError h.1, h.2.congr rfl⟩
  store {_ p v} h hr hi hl := ⟨keptByMoves_statesAgree.store h.1 hr hi hl, h.2.congr (store_banksPart p v)⟩
  clearPending i h := ⟨keptByMoves_statesAgree.clearPending i h.1, h.2.congr rfl⟩
  clearDom d h := ⟨keptByMoves_statesAgree.clearDom d h.1, h.2.congr (updDom_banksPart d rfl)⟩
  clearDev h := ⟨keptByMoves_statesAgree.clearDev h.1, h.2.congr rfl⟩
  start {_ d} h hr hv hs hf := ⟨keptByMoves_statesAgree.start h.1 hr hv hs hf, h.2.congr (updDom_banksPart d rfl)⟩
  stop {s d} h hr hv hs := ⟨keptByMoves_statesAgree.stop h.1 hr hv hs,
    h.2.congr ((request_banksPart d .stop).trans (updDom_banksPart d rfl))⟩
  discard {_ d} h hr hv hd := ⟨keptByMoves_statesAgree.discard h.1 hr hv hd, h.2.discardOpen d⟩
  restart h hr hv := ⟨keptByMoves_statesAgree.restart h.1 hr hv, h.2.acceptRestart⟩

/-- Settles O56: `keptByMoves_banksInOrder` over the moves of a step. -/
theorem banksAndPortsStayInOrder : Obligations.BanksAndPortsStayInOrder := by
  intro s t hs hb ht
  exact (keptByMoves_banksInOrder.step ⟨(statesInOrder_iff.1 hs).1, hb⟩ ht).2

/-- Settles O60: the reset states of the blocks are in order. -/
theorem resetStateIsInOrder : Obligations.ResetStateIsInOrder := by
  refine ⟨statesInOrder_iff.2 ⟨statesAgree_of_reset rfl, fun hr => by cases hr⟩, banksInOrder_of_empty true false rfl,
    ringInOrder_of_empty rfl fun d => by cases d <;> rfl, ?_, paramsInOrder_of_reset rfl⟩
  constructor <;> decide

end Sys2Proof.Machine
end

section
/-! SUPPORT. When the part's own instants are due, and what the placing, the release, the begin of a bank and the drain end do (R17, R96, R102, R125). -/

namespace Sys2Proof.Machine

variable {s t : State} {h : Hold}

/-- Settles O1. -/
theorem stepRunsTheFrontCommand : Obligations.StepRunsTheFrontCommand := by
  intro s c rest hp
  unfold step
  rw [hp]

/-! ### When an instant is not due -/

theorem not_hasRoom_iff {d : Dom} :
    s.hasRoom d = false ↔ (s.dom d).params.quota.toNat ≤ (s.dom d).openBank.length ∨ s.free = 0 := by
  have hpos : ¬1 ≤ s.free ↔ s.free = 0 := by omega
  rw [← Bool.not_eq_true, State.hasRoom, Bool.and_eq_true, decide_eq_true_eq, decide_eq_true_eq, not_and_or, not_lt, hpos]

/-- R58: a domain is blocked by its groups while one of them is OPEN. -/
theorem groupBlock_iff {d : Dom} : s.groupBlock d = true ↔ ∃ i : Fin 16, s.groupDom i = d ∧ s.groupState i = .opened := by
  simp only [State.groupBlock, State.openGroups, Bool.not_eq_true', List.isEmpty_eq_false_iff_exists_mem, List.mem_filter,
    List.mem_finRange, true_and, Bool.and_eq_true, decide_eq_true_eq, and_comm]

theorem commitCondition_eq_false {d : Dom} {b : Boundary} : s.commitCondition d b = false ↔
    ((∃ i : Fin 16, s.groupDom i = d ∧ s.groupState i = .opened) ∧ b.groupExpired = false) ∨
      ((s.dom d).sampleN = false ∧ b.sampleExpired = false) := by
  rw [← groupBlock_iff]
  unfold State.commitCondition
  cases s.groupBlock d <;> cases b.groupExpired <;> cases (s.dom d).sampleN <;> cases b.sampleExpired <;> decide

theorem tryPlace_eq_none : s.tryPlace = none ↔ (s.resetN = true → ∀ w, s.held = some w → w.reason = .space →
    (s.dom w.dom).params.quota.toNat ≤ (s.dom w.dom).openBank.length ∨ s.free = 0) := by
  rw [Option.eq_none_iff_forall_ne_some]
  constructor
  · intro hn hr w hw hs
    rw [← not_hasRoom_iff, ← Bool.not_eq_true]
    exact fun hroom => hn _ (tryPlace_eq_some.2 ⟨w, hw, hr, hs, hroom, rfl⟩)
  · intro hc u hu
    obtain ⟨w, hw, hr, hs, hroom, -⟩ := tryPlace_eq_some.1 hu
    cases (not_hasRoom_iff.2 (hc hr w hw hs)).symm.trans hroom

theorem tryDrainEnd_eq_none : s.tryDrainEnd = none ↔ (s.resetN = true → ∀ e rest, s.queue = e :: rest → e.phase = .draining →
    (s.dom e.dom).drainBank ≠ []) := by
  rw [Option.eq_none_iff_forall_ne_some]
  constructor
  · exact fun hn hr e rest hq hp hb => hn _ (tryDrainEnd_eq_some.2 ⟨e, rest, hq, hr, hp, hb, rfl⟩)
  · intro hc u hu
    obtain ⟨e, rest, hq, hr, hp, hb, -⟩ := tryDrainEnd_eq_some.1 hu
    exact hc hr e rest hq hp hb

theorem tryCommit_eq_none {d : Dom} : s.tryCommit d = none ↔ (s.resetN = true → ∀ b g l, (s.dom d).sched = .settle b g l →
    ((∃ i : Fin 16, s.groupDom i = d ∧ s.groupState i = .opened) ∧ b.groupExpired = false) ∨
      ((s.dom d).sampleN = false ∧ b.sampleExpired = false)) := by
  rw [Option.eq_none_iff_forall_ne_some]
  constructor
  · intro hn hr b g l hs
    rw [← commitCondition_eq_false, ← Bool.not_eq_true]
    exact fun hc => hn _ (tryCommit_eq_some.2 ⟨b, g, l, hs, hr, hc, rfl⟩)
  · intro hc u hu
    obtain ⟨b, g, l, hs, hr, hcond, -⟩ := tryCommit_eq_some.1 hu
    cases (commitCondition_eq_false.2 (hc hr b g l hs)).symm.trans hcond

theorem tryRelease_eq_none : s.tryRelease = none ↔ (s.resetN = true → ∀ w, s.held = some w → w.reason = .flush →
    (s.dom w.dom).state ≠ .off) := by
  rw [Option.eq_none_iff_forall_ne_some]
  constructor
  · exact fun hn hr w hw hs ho => hn _ (tryRelease_eq_some.2 ⟨w, hw, hr, hs, ho, rfl⟩)
  · intro hc u hu
    obtain ⟨w, hw, hr, hs, ho, -⟩ := tryRelease_eq_some.1 hu
    exact hc hr w hw hs ho

theorem tryBegin_eq_none : s.tryBegin = none ↔ (s.resetN = true → ∀ e rest, s.queue = e :: rest → s.engine = .idle →
    e.phase = .queued → e.fence = true) := by
  rw [Option.eq_none_iff_forall_ne_some]
  constructor
  · intro hn hr e rest hq hi hp
    by_contra hf
    exact hn _ (tryBegin_eq_some.2 ⟨e, rest, hq, hr, hi, hp, by simpa using hf, rfl⟩)
  · intro hc u hu
    obtain ⟨e, rest, hq, hr, hi, hp, hf, -⟩ := tryBegin_eq_some.1 hu
    cases hf.symm.trans (hc hr e rest hq hi hp)

theorem tryRestart_eq_none : s.tryRestart = none ↔ (s.resetN = true → s.device = .restarting → s.queue ≠ []) := by
  rw [Option.eq_none_iff_forall_ne_some]
  constructor
  · exact fun hn hr hv hq => hn _ (tryRestart_eq_some.2 ⟨hr, hv, hq, rfl⟩)
  · intro hc u hu
    obtain ⟨hr, hv, hq, -⟩ := tryRestart_eq_some.1 hu
    exact hc hr hv hq

theorem tryGrant_eq_none : s.tryGrant = none ↔ (s.resetN = true → s.arb.mp = none → s.arb.granted = none →
    ∀ w, s.arb.request w = none) := by
  rw [Option.eq_none_iff_forall_ne_some]
  constructor
  · intro hn hr hm hg
    rw [← choose_eq_none, Option.eq_none_iff_forall_ne_some]
    intro w hw
    obtain ⟨q, hq⟩ := Option.isSome_iff_exists.1 (choose_eq_some.1 hw).2
    exact hn _ (tryGrant_eq_some.2 ⟨w, q, hr, hm, hg, hw, hq, rfl⟩)
  · intro hc u hu
    obtain ⟨w, q, hr, hm, hg, -, hq, -⟩ := tryGrant_eq_some.1 hu
    cases (hc hr hm hg w).symm.trans hq

/-- With RESET_N high no instant is taken exactly when none is due but those held back. -/
theorem advance_eq_none_iff (hr : s.resetN = true) : s.advance h = none ↔ s.NothingDue h := by
  rw [advance_eq_none, tryPlace_eq_none, tryDrainEnd_eq_none, tryRelease_eq_none, tryBegin_eq_none, tryRestart_eq_none,
    tryGrant_eq_none]
  constructor
  · rintro ⟨h1, h2, h3, h4, h5, h6, h7⟩
    exact ⟨h1 hr, h2 hr, fun d b g l hs hd => tryCommit_eq_none.1 (h3 d hd) hr b g l hs, h4 hr, h5 hr, h6 hr,
      fun hg => h7 hg hr⟩
  · rintro ⟨h1, h2, h3, h4, h5, h6, h7⟩
    exact ⟨fun _ => h1, fun _ => h2, fun d hd => tryCommit_eq_none.2 fun _ b g l hs => h3 d b g l hs hd, fun _ => h4,
      fun _ => h5, fun _ => h6, fun hg _ => h7 hg⟩

theorem settleHolding_of_nothingDue (hr : s.resetN = true) (hn : s.NothingDue h) : s.settleHolding h = s :=
  settleHolding_of_advance ((advance_eq_none_iff hr).2 hn)

theorem settle_of_nothingDue (hr : s.resetN = true) (hn : s.NothingDue {}) : s.settle = s :=
  settleHolding_of_nothingDue hr hn

theorem settleHolding_nothingDue (hr : s.resetN = true) : (s.settleHolding h).NothingDue h :=
  (advance_eq_none_iff (settleHolding_resetN.trans hr)).1 settleHolding_advance

/-! ### Log 1: what a write holds back -/

theorem fills_iff {d : Dom} {a : Addr} {be : Lanes} : s.fills d a be = true ↔
    be ≠ 0 ∧ s.journals d ∧ (∀ e ∈ (s.dom d).openBank, e.addr ≠ a) ∧
      ((s.dom d).params.quota.toNat ≤ (s.dom d).openBank.length ∨ s.free = 0) ∧ (s.dom d).params.policy = .early := by
  have hl : ((s.dom d).openBank.lookup a).isNone = true ↔ ∀ e ∈ (s.dom d).openBank, e.addr ≠ a := by
    simp [Bank.lookup, List.find?_eq_none]
  simp only [State.fills, Bool.and_eq_true, decide_eq_true_eq, takesRequests_iff, hl, Bool.not_eq_true', not_hasRoom_iff,
    and_assoc]

theorem holdFor_cases (s : State) (d : Dom) (c : Cause) : s.holdFor d c = {} ∨ s.holdFor d c = { commit := some d } := by
  unfold State.holdFor
  split
  · exact .inl rfl
  · split
    · exact .inl rfl
    · exact .inr rfl
  · split
    · exact .inl rfl
    · exact .inr rfl

/-- A write finds the commit point of its domain held back only if it raises a FILL request then (R36, R51). -/
theorem settleForWrite_cases (s : State) (a : Addr) (be : Lanes) : s.settleForWrite a be = s.settleHolding { grant := true } ∨
    ∃ d, s.classify a = some d ∧ s.settleForWrite a be = s.settleHolding { commit := some d, grant := true } ∧
      (s.settleForWrite a be).fills d a be = true := by
  unfold State.settleForWrite
  cases hc : s.classify a with
  | none => exact .inl rfl
  | some d =>
    dsimp only
    split
    · next hf =>
      rcases holdFor_cases s d .fill with e | e <;> rw [e] at hf ⊢
      · exact .inl rfl
      · exact .inr ⟨d, rfl, rfl, hf⟩
    · exact .inl rfl

/-- Settles O4: after `settleHolding` no instant is due but those held back, and the row of one that is not due takes nothing. -/
theorem instantsOccurWhenDue : Obligations.InstantsOccurWhenDue := by
  intro s
  have hrow : ∀ {o : Option State}, o = none → (Host.Outcome.next (o.getD s) : Host.Outcome State Fault Refusal) = .next s :=
    fun ho => by rw [ho]; rfl
  refine ⟨fun h => ⟨settleHolding_nothingDue, settleHolding_still⟩, fun d hc => hrow (tryCommit_eq_none.2 fun _ => hc),
    fun hc => hrow (tryPlace_eq_none.2 fun _ => hc), fun hc => hrow (tryRelease_eq_none.2 fun _ => hc),
    fun hc => hrow (tryBegin_eq_none.2 fun _ => hc), fun hc => hrow (tryDrainEnd_eq_none.2 fun _ => hc),
    fun hc => hrow (tryRestart_eq_none.2 fun _ => hc), fun hc => hrow (tryGrant_eq_none.2 fun _ hm hg => ?_),
    fun a be => ?_⟩
  · rcases hc with hc | hc | hc
    · rw [hm] at hc; cases hc
    · rw [hg] at hc; cases hc
    · exact hc
  · rcases settleForWrite_cases s a be with he | ⟨d, hc, he, hf⟩
    · exact .inl he
    · obtain ⟨h1, h2, h3, h4, h5⟩ := fills_iff.1 hf
      exact .inr ⟨d, _, hc, rfl, he, h1, h2, h3, h4, h5⟩

/-! ### What each instant does -/

/-- What is placed is placed whatever stood in the held write and on the port before. -/
theorem placed_of_port {l : Option HeldWrite} {p : Port} {d : Dom} {a : Addr} {be : Lanes} {data : Word}
    (hp : ({ s with held := l, wp := p } : State).Placed t d a be data) : s.Placed t d a be data := by
  have hdom : ∀ e, ({ s with held := l, wp := p } : State).dom e = s.dom e := fun e => dom_congr rfl rfl e
  exact
    { bank := by rw [← hdom]; exact hp.bank
      slot := hp.slot
      counters := counted_congr hp.counters (by rw [hdom]) rfl
      groups := hp.groups
      answer := hp.answer
      domain := by rw [← hdom]; exact hp.domain
      others := by rw [← hdom]; exact hp.others
      frame := (congrArg (fun u : State => { u with held := s.held, wp := s.wp }) hp.frame :) }

/-- Settles O6: the row places the held write, which `appendEntry_placed` describes. -/
theorem heldWriteIsPlacedWhenThereIsRoom : Obligations.HeldWriteIsPlacedWhenThereIsRoom := by
  intro s w hr hw hs hq hf
  have hroom : s.hasRoom w.dom = true := by simp [State.hasRoom, hq, hf]
  refine ⟨s.placeHeld w, ?_, by simp [State.placeHeld, State.appendEntry], ?_⟩
  · exact congrArg (fun o : Option State => Host.Outcome.next (o.getD s))
      (tryPlace_eq_some.2 ⟨w, hw, hr, hs, hroom, rfl⟩)
  · exact placed_of_port (appendEntry_placed (s := { s with held := none }) w.dom w.addr w.be w.data hf)

/-- Settles O7. -/
theorem flushedWriteIsReleasedToMemory : Obligations.FlushedWriteIsReleasedToMemory := by
  intro s w hr hw hs ho
  exact congrArg (fun o : Option State => Host.Outcome.next (o.getD s)) (tryRelease_eq_some.2 ⟨w, hw, hr, hs, ho, rfl⟩)

/-- Settles O8: the bank begins with the write of its first entry. -/
theorem drainBankBegins : Obligations.DrainBankBegins := by
  intro s e rest first more hr hi hq hp hf hb
  have hbegin : s.beginBank e rest = { s with
      queue := { e with phase := .draining } :: rest
      engine := .writing
      arb := { s.arb with drainReq := some first.drainWrite, drainWait := 0 } } := by
    rw [State.beginBank, hb]; rfl
  exact congrArg (fun o : Option State => Host.Outcome.next (o.getD s))
    (tryBegin_eq_some.2 ⟨e, rest, hq, hr, hi, hp, hf, hbegin.symm⟩)

/-- A state with the domains, the slots and the events of `s` that agrees with `s` outside is `s`. -/
theorem eq_of_outside (h : t.outside = s.outside) :
    { t with dom0 := s.dom0, dom1 := s.dom1, free := s.free, events := s.events } = s :=
  congrArg (fun u : State => { u with dom0 := s.dom0, dom1 := s.dom1, free := s.free, events := s.events }) h

/-- Settles O9: `endDrain_dom`, `endDrain_outside` and `endDrain_event` over the row. -/
theorem drainEndCompletesTheRecord : Obligations.DrainEndCompletesTheRecord := by
  intro s e rest x hr hq hp hx hb
  subst hx
  have hdom := endDrain_dom (s := s) e rest
  have ho := endDrain_outside (s := s) e rest
  have hsched : (s.dom e.dom).drainEnded = { s.dom e.dom with
      sched := match (s.dom e.dom).sched with
        | .drainWait b => .settle b (some (s.dom e.dom).params.groupHold.toNat) (some (s.dom e.dom).params.sampleHold.toNat)
        | .idle => .idle
        | .settle b g l => .settle b g l } := by
    unfold Domain.drainEnded
    cases hs : (s.dom e.dom).sched with
    | idle => dsimp only; rw [← hs]
    | drainWait b => rfl
    | settle b g l => dsimp only; rw [← hs]
  refine ⟨s.endDrain e rest, ?_, by simpa using congrArg State.queue ho, ?_, fun v => ?_, by simpa using congrArg State.engine ho,
    by rw [hdom, hsched] <;> rfl, endDrain_dom_otherDom e rest, ?_⟩
  · exact congrArg (fun o : Option State => Host.Outcome.next (o.getD s)) (tryDrainEnd_eq_some.2 ⟨e, rest, hq, hr, hp, hb, rfl⟩)
  · have hh : (s.endDrain e rest).history = (s.updRecord e fun r => { r with drain := .done }).history := by
      simpa using congrArg State.history ho
    rw [hh]
    refine List.map_congr_left fun r _ => ?_
    by_cases hk : r.isOf e = true
    · rw [if_pos hk, if_pos (isOf_iff.1 hk)]
    · rw [if_neg hk, if_neg (fun k => hk (isOf_iff.2 k))]
  · rw [endDrain_event]
    by_cases hv : v = .dom e.dom .drained
    · rw [if_pos hv, if_pos (by simpa using hv)]
    · rw [if_neg hv, if_neg (by simpa using hv)]
  · have hf := endDrain_free (s := s) e rest
    have := congrArg (fun u : State => { u with
      dom0 := s.dom0, dom1 := s.dom1, free := s.free, queue := s.queue, history := s.history, engine := s.engine
      events := s.events }) ho
    rw [← hf] at this
    exact this.trans (by rw [hf]; rfl)

end Sys2Proof.Machine
end

section
/-! SUPPORT. What a commit point and the completion of a RESTART do (R44 to R50, R60, R61, R72, R128). -/

namespace Sys2Proof.Machine

variable {s t : State}

/-! ### The counters and the events of a commit point (R47, R61, R72) -/

theorem satAdd_satAdd_of_zero {c : Half} {m n : Nat} (h : m = 0 ∨ n = 0) : satAdd (satAdd c m) n = satAdd c (m + n) := by
  rcases h with rfl | rfl <;> simp

theorem swapEpoch_counter (d : Dom) (b : Boundary) (c : DomCounter) :
    (s.swapEpoch d b).counter d c = (s.abandon d).counter d c := by
  refine counter_congr ?_ c
  rw [State.swapEpoch, pushHistory_dom, closeGroups_dom, updDom_dom_same]
  rfl

theorem swapEpoch_sampleN (d : Dom) (b : Boundary) : ((s.swapEpoch d b).dom d).sampleN = (s.dom d).sampleN :=
  (congrArg Domain.sampleN (swapEpoch_uncounted (s := s) d b) :)

theorem commit_counter (d : Dom) (b : Boundary) (c : DomCounter) :
    (s.commit d b).counter d c = (s.endEpoch d b).counter d c := by
  refine counter_congr ?_ c
  rw [commit_eq]
  split
  · rw [finishFinal_dom]
  · rfl

theorem endEpoch_counter (d : Dom) (b : Boundary) (c : DomCounter) :
    (s.endEpoch d b).counter d c = ((s.swapEpoch d b).noteCommit d).counter d c := by
  refine counter_congr ?_ c
  rw [State.endEpoch, enqueue_dom, State.noteEpoch, fenceRead_dom]

theorem commit_counted (d : Dom) (b : Boundary) : s.counted (s.commit d b) d fun c =>
    if c = .commits then 1 else if c = .abandoned then (s.openGroups d).length
    else if c = .overrides then one (!(s.dom d).sampleN) else 0 := by
  intro c
  rw [commit_counter, endEpoch_counter, noteCommit_counter, swapEpoch_counter, abandon_counter, swapEpoch_sampleN,
    satAdd_satAdd_of_zero]
  · cases c <;> simp
  · cases c <;> simp

theorem commit_event (d : Dom) (b : Boundary) (e : Event) : (s.commit d b).event e = (s.endEpoch d b).event e := by
  refine event_congr ?_ e
  rw [commit_eq]
  split
  · exact finishFinal_events d
  · rfl

theorem commit_occurred (d : Dom) (b : Boundary) : s.occurred (s.commit d b) fun e =>
    decide (e = .dom d .commit) || (decide (e = .dom d .groupAbandoned) && decide ((s.openGroups d).length ≠ 0)) ||
      (decide (e = .dom d .sampleOverride) && !(s.dom d).sampleN) ||
      (decide (e = .dom d .drained) && (s.keptEntries d).isEmpty) := by
  intro e
  have hn : (s.noteEpoch d b).event e = ((s.swapEpoch d b).noteCommit d).event e := event_congr rfl e
  have hs : (s.swapEpoch d b).event e = (s.abandon d).event e := by
    refine event_congr ?_ e
    simp [State.swapEpoch]
  rw [commit_event, State.endEpoch, enqueue_event, noteEpoch_drainBank, hn, noteCommit_event, hs, abandon_event,
    swapEpoch_sampleN]
  by_cases h1 : e = .dom d .commit
  · subst h1; simp
  by_cases h2 : e = .dom d .groupAbandoned
  · subst h2; simp
  by_cases h3 : e = .dom d .sampleOverride
  · subst h3; simp
  by_cases h4 : e = .dom d .drained
  · subst h4; simp
  · simp [h1, h2, h3, h4]

/-- R60: an entry is abandoned with the group whose tag it carries. -/
theorem keptEntries_eq (d : Dom) : s.keptEntries d =
    (s.dom d).openBank.filter fun e => !(s.openGroups d).any fun i => decide (e.tag = some i) := by
  refine List.filter_congr fun e _ => ?_
  unfold Entry.taggedBy
  cases e.tag with
  | none => simp
  | some g =>
    rw [Bool.eq_iff_iff]
    simp only [Bool.not_eq_true', List.contains_eq_mem, decide_eq_false_iff_not, List.any_eq_false, decide_eq_true_eq,
      Option.some.injEq]
    exact ⟨fun h x hx hgx => h (hgx ▸ hx), fun h hg => h g hg rfl⟩

theorem closeGroups_groupsClosed (d : Dom) : s.groupsClosed (s.closeGroups d) d := by
  intro g
  simp [State.closeGroups]

/-- Settles O5: the row takes the commit point, which `commit_uncounted`, `commit_outside`, `commit_counted` and `commit_occurred`
describe. -/
theorem commitPointEndsTheEpoch : Obligations.CommitPointEndsTheEpoch := by
  intro s d b g l x kept n hr hx hs hgroups hsample hkept hn
  subst hx
  rw [← keptEntries_eq] at hkept
  subst hkept hn
  have hcond : s.commitCondition d b = true := by
    rw [← Bool.not_eq_false, commitCondition_eq_false]
    rintro (⟨⟨i, h1, h2⟩, h3⟩ | ⟨h1, h2⟩)
    · rcases hgroups with hg | hg
      · exact hg i h1 h2
      · cases hg.symm.trans h3
    · rcases hsample with hs | hs
      · cases hs.symm.trans h1
      · cases hs.symm.trans h2
  have hu := commit_uncounted (s := s) d b
  have ho := commit_outside (s := s) d b
  have hgroupStates : (s.commit d b).groupStates = (s.closeGroups d).groupStates := by
    simpa using congrArg State.groupStates ho
  have hhistory : (s.commit d b).history = (s.epochRecord d b :: s.history).take 16 := by
    simpa using congrArg State.history ho
  have hqueue : (s.commit d b).queue = if s.keptEntries d = [] then s.queue else s.queue ++ [s.epochElement d] := by
    simpa using congrArg State.queue ho
  have hempty : (s.keptEntries d).isEmpty = true ↔ s.keptEntries d = [] := List.isEmpty_iff
  refine ⟨s.commit d b, ?_, (congrArg (fun y : Domain => { y with
      state := (s.dom d).state, timer := (s.dom d).timer, counters := (s.dom d).counters }) hu :),
    commit_free d b, fun i => ?_, by simpa using congrArg State.serial ho, hhistory,
    commit_counted d b, commit_occurred d b, ?_, ?_, ?_, by simpa using congrArg State.held ho, commit_dom_otherDom d b, ?_⟩
  · exact congrArg (fun o : Option State => Host.Outcome.next (o.getD s)) (tryCommit_eq_some.2 ⟨b, g, l, hs, hr, hcond, rfl⟩)
  · rw [hgroupStates]; exact closeGroups_groupsClosed d i
  · simp only [hempty]
    exact hqueue
  · exact (by simpa using congrArg State.cpRead ho : (s.commit d b).cpRead = (s.fenceRead d).cpRead)
  · have hstate : ((s.commit d b).dom d).state = s.stateAfter d b := (congrArg Domain.state hu :)
    have htimer : ((s.commit d b).dom d).timer = s.timerAfter d b := (congrArg Domain.timer hu :)
    rw [hstate, htimer, State.stateAfter, State.timerAfter]
    cases b.final <;> cases s.keptEntries d <;> rfl
  · exact (congrArg (fun u : State => { u with
      dom0 := s.dom0, dom1 := s.dom1, free := s.free, held := s.held, groupStates := s.groupStates, queue := s.queue
      cpRead := s.cpRead, history := s.history, serial := s.serial, events := s.events }) ho :)

/-! ### The completion of a RESTART (R128) -/

theorem restartEnded_counter (d : Dom) (c : DomCounter) : s.restartEnded.counter d c = 0 := by
  have h : (s.restartEnded.dom d).counters = Domain.reset.counters := by rw [restartEnded_dom]
  rw [State.counter, h]
  simp [Domain.reset]

theorem restartEnded_devCounter (c : DevCounter) : s.restartEnded.devCounter c = 0 := by
  cases c <;> rfl

theorem clearEvents_event (e : Event) : s.clearEvents.event e = ⟨false, 0⟩ := by
  simp [State.event, State.clearEvents]

theorem restartEnded_event (e : Event) : s.restartEnded.event e =
    if e = .restartDone then { pending := true, count := 1 } else { pending := false, count := 0 } := by
  have h : ∀ u : State, ((u.clearEvents).raise .restartDone).event e =
      if e = .restartDone then { pending := true, count := 1 } else { pending := false, count := 0 } := fun u => by
    rw [raise_event, clearEvents_event, clearEvents_event]; rfl
  exact h _

/-- `t` with the fields the completion of a RESTART writes (R128) taken from `s`. -/
def State.unrestarted (s t : State) : State :=
  { t with device := s.device, dom0 := s.dom0, dom1 := s.dom1, history := s.history, serial := s.serial, held := s.held
           devCounters := s.devCounters, events := s.events }

theorem restartEnded_frame : s.unrestarted s.restartEnded = s := by
  have hdevice : ∀ u : State, s.unrestarted { u with device := .running } = s.unrestarted u := fun u => rfl
  have hraise : ∀ (u : State) e, s.unrestarted (u.raise e) = s.unrestarted u := fun u e => rfl
  have hevents : ∀ u : State, s.unrestarted u.clearEvents = s.unrestarted u := fun u => rfl
  have hcounters : ∀ u : State, s.unrestarted u.clearAllCounters = s.unrestarted u := fun u => rfl
  unfold State.restartEnded
  rw [hdevice, hraise, hevents, hcounters]
  rfl

/-- Settles O10: `releaseRestart` releases the held write or leaves the state of `restartEnded`. -/
theorem restartCompletesInOrder : Obligations.RestartCompletesInOrder := by
  intro s hr hv hq
  have hexec : exec .restartCompletion s = .next s.completeRestart :=
    congrArg (fun o : Option State => Host.Outcome.next (o.getD s)) (tryRestart_eq_some.2 ⟨hr, hv, hq, rfl⟩)
  have hheld : s.restartEnded.held = s.held := rfl
  refine ⟨s.completeRestart, hexec, ?_⟩
  have hdom : ∀ d, { s.completeRestart.dom d with counters := (s.dom d).counters } =
      { s.dom d with state := .off, timer := none, epoch := 0 } := fun d => by rw [completeRestart_dom]
  rcases releaseRestart_cases s.restartEnded with ⟨w, hw, hs, e⟩ | ⟨hn, e⟩
  · rw [← completeRestart_eq] at e
    rw [hheld] at hw
    rw [e] at hdom ⊢
    refine ⟨rfl, hdom, rfl, rfl, fun d c => ?_, fun c => ?_, fun v => ?_, ?_, ?_⟩
    · rw [← restartEnded_counter (s := s) d c]; exact counter_congr (by cases d <;> rfl) c
    · rw [← restartEnded_devCounter (s := s) c]; rfl
    · rw [← restartEnded_event (s := s) v]; exact event_congr rfl v
    · simp only [hw, hs, if_true]; rfl
    · have hf := restartEnded_frame (s := s)
      have ha : s.restartEnded.arb = s.arb := rfl
      generalize s.restartEnded = u at hf ha ⊢
      rw [← ha]
      exact hf
  · rw [← completeRestart_eq] at e
    rw [hheld] at hn
    rw [e] at hdom ⊢
    refine ⟨rfl, hdom, rfl, rfl, restartEnded_counter, restartEnded_devCounter, restartEnded_event, ?_, restartEnded_frame⟩
    cases hw : s.held with
    | none => exact Prod.ext hw rfl
    | some w => simp only [hn w hw, if_false]; exact Prod.ext hw rfl

end Sys2Proof.Machine
end

section
/-! SUPPORT. The limits and the lines, and what RESET_N and power-up leave (R18, R28, R30, R59, R67, R131, R132). -/

namespace Sys2Proof.Machine

variable {s t : State}

/-! ### Limits and lines -/

/-- Settles O28. -/
theorem timerExpiryReloadsAndRequests : Obligations.TimerExpiryReloadsAndRequests := by
  intro s q d hq hr
  have hexec : exec (.epochTimerExpiry d) s = .next (q.expireTimer d) := by
    rw [← hq]
    exact congrArg Host.Outcome.next (if_pos hr)
  rw [hexec]
  refine ⟨fun n hn => ?_, fun hn => ?_⟩
  · simp only [State.expireTimer, hn]
  · simp only [State.expireTimer, hn]

/-- Settles O29: a rising edge counts where EPOCH_IN_d was low. -/
theorem risingEdgeRequestsALineBoundary : Obligations.RisingEdgeRequestsALineBoundary := by
  intro s q u d hq hr hu
  have hqr : q.resetN = true := hq ▸ settleHolding_resetN.trans hr
  have hexec : exec (.epochInRisingEdge d) s = .next (if (q.dom d).epochIn = false then q.lineEdge d else q) := by
    subst hq
    have hif : ∀ (u : State), u.resetN = true → (if u.resetN && !(u.dom d).epochIn then u.lineEdge d else u) =
        if (u.dom d).epochIn = false then u.lineEdge d else u := fun u hu => by
      simp only [hu, Bool.true_and, Bool.not_eq_true']
    exact congrArg Host.Outcome.next (hif _ hqr)
  have hfall : exec (.epochInFallingLevel d) s = .next (s.settle.updDom d fun x => { x with epochIn := false }) :=
    congrArg Host.Outcome.next (if_pos (settle_resetN.trans hr))
  refine ⟨fun hlow hv hs hl => ?_, fun hlow hn => ?_, fun hhigh => ?_, hfall⟩
  · rw [hexec, if_pos hlow, State.lineEdge, if_pos ⟨hv, hs, hl⟩, hu]
  · rw [hexec, if_pos hlow, State.lineEdge, if_neg hn, hu]
  · rw [hexec, if_neg (by rw [hhigh]; decide)]

/-- What an operation on a domain does to a domain whose present fields are known. -/
theorem updDom_congr {d : Dom} {f g : Domain → Domain} (h : f (s.dom d) = g (s.dom d)) : s.updDom d f = s.updDom d g := by
  rw [State.updDom, State.updDom, h]

/-- Settles O30. -/
theorem sampleLevelAndHoldExpiriesAreTaken : Obligations.SampleLevelAndHoldExpiriesAreTaken := by
  intro s q d b n g l level hq hr
  have hqr : q.resetN = true := hq ▸ settle_resetN.trans hr
  subst hq
  refine ⟨congrArg Host.Outcome.next (if_pos hqr), fun hs => ?_, fun hs => ?_⟩
  · refine congrArg Host.Outcome.next ((if_pos hqr).trans (updDom_congr ?_))
    simp only [Domain.expireGroupHold, hs]
  · refine congrArg Host.Outcome.next ((if_pos hqr).trans (updDom_congr ?_))
    simp only [Domain.expireSampleHold, hs]

/-- R18. -/
theorem expireHeld_counted (w : HeldWrite) :
    s.counted (s.expireHeld w) w.dom fun c => if c = .writeFails then 1 else 0 :=
  counted_congr (bump_counted (s := { s with held := none }) w.dom .writeFails 1)
    (by rw [dom_congr (t := { s with held := none }) (s := s) rfl rfl]) (by simp [State.expireHeld])

theorem expireHeld_occurred (w : HeldWrite) :
    s.occurred (s.expireHeld w) fun e => decide (e = .dom w.dom .writeFail) :=
  occurred_congr (raise_occurred (s := ({ s with held := none } : State).bump w.dom .writeFails 1) (.dom w.dom .writeFail))
    (by simp) (by simp [State.expireHeld])

theorem expireHeld_frame (w : HeldWrite) :
    { (s.expireHeld w).dom w.dom with counters := (s.dom w.dom).counters } = s.dom w.dom ∧
      (s.expireHeld w).dom (otherDom w.dom) = s.dom (otherDom w.dom) ∧
      { s.expireHeld w with dom0 := s.dom0, dom1 := s.dom1, held := s.held, wp := s.wp, events := s.events } = s := by
  unfold State.expireHeld
  generalize w.dom = d
  cases d <;> exact ⟨rfl, rfl, rfl⟩

/-- Settles O31. -/
theorem holdLimitAnswersErr : Obligations.HoldLimitAnswersErr := by
  intro s q w hq hr hw
  have hqr : q.resetN = true := hq ▸ settle_resetN.trans hr
  subst hq
  obtain ⟨h1, h2, h3⟩ := expireHeld_frame (s := s.settle) w
  refine ⟨s.settle.expireHeld w, ?_, by simp [State.expireHeld], rfl, expireHeld_counted w, expireHeld_occurred w, h1, h2, h3⟩
  refine congrArg Host.Outcome.next ((if_pos hqr).trans ?_)
  simp only [State.expireWriteHold, hw]

/-! ### Reset -/

/-- Settles O32: the records are those of Table 7.7. -/
theorem resetWritesTheResetRecord : Obligations.ResetWritesTheResetRecord := by
  intro s q r hq hr hrec
  have hlost : ∀ d, r d = q.lostRecord d := fun d => (hrec d).trans rfl
  rw [hlost, hlost]
  subst hq
  exact congrArg Host.Outcome.next (if_pos hr)

/-- Settles O33. -/
theorem releaseAndPowerUpGiveTheResetState : Obligations.ReleaseAndPowerUpGiveTheResetState := by
  intro s lines high
  refine ⟨fun hr => ?_, rfl⟩
  exact congrArg Host.Outcome.next (if_neg (by rw [hr]; decide))

theorem reset_counter (d : Dom) (c : DomCounter) : State.reset.counter d c = 0 := by
  cases d <;> cases c <;> rfl

theorem reset_event (e : Event) : State.reset.event e = { pending := false, count := 0 } := by
  simp [State.event, State.reset]

/-- Settles O34. -/
theorem resetStateHoldsTheRuledValues : Obligations.ResetStateHoldsTheRuledValues := by
  refine ⟨rfl, rfl, rfl, fun d => ?_, rfl, rfl, rfl, rfl, fun r => ?_, rfl, rfl, rfl, rfl, rfl, rfl, rfl, rfl, rfl,
    reset_event, by decide, fun c => ?_, fun i => ?_, rfl, rfl, rfl, by decide, by decide, by decide, fun d => ?_, fun w => ?_,
    fun i => ?_⟩
  · cases d
    · exact ⟨rfl, rfl, rfl, rfl, rfl, rfl, rfl, reset_counter .d0, rfl⟩
    · exact ⟨rfl, rfl, rfl, rfl, rfl, rfl, rfl, reset_counter .d1, rfl⟩
  · cases r <;> exact ⟨rfl, rfl⟩
  · cases c <;> rfl
  · revert i; decide
  · cases d <;> decide
  · revert w; decide
  · revert i; decide

end Sys2Proof.Machine
end

section
/-! SUPPORT. The accesses of the upstream ports: classification, placing, holding, refusing, passing through (R8 to R18, R80, R115 to R118, R171). -/

namespace Sys2Proof.Machine

variable {s t q : State}

/-! ### The classification (R114, R115) -/

/-- The first of the numbers below `n` with a property is the least. -/
theorem find?_finRange_eq_some {n : Nat} {p : Fin n → Bool} {w : Fin n} :
    (List.finRange n).find? p = some w ↔ p w = true ∧ ∀ v < w, p v = false := by
  rw [List.find?_eq_some_iff_getElem]
  simp only [List.getElem_finRange, List.length_finRange, Bool.not_eq_true']
  constructor
  · rintro ⟨hw, i, hi, rfl, hv⟩
    exact ⟨hw, fun v hvi => hv v hvi⟩
  · rintro ⟨hw, hv⟩
    exact ⟨hw, w, w.isLt, rfl, fun j hj => hv ⟨j, by omega⟩ hj⟩

/-- Settles O11. -/
theorem lowestWindowInUseClassifies : Obligations.LowestWindowInUseClassifies := by
  intro s a hits hhits
  have hmatch : ∀ w : Fin 8, (s.windows[w].covers a && s.inUse s.windows[w].dom) = true ↔ hits w := fun w => by
    rw [hhits]
    simp only [Window.covers, State.inUse, Bool.and_eq_true, decide_eq_true_eq, and_assoc]
    rfl
  have hmiss : ∀ w : Fin 8, (s.windows[w].covers a && s.inUse s.windows[w].dom) = false ↔ ¬hits w := fun w => by
    rw [← hmatch, Bool.not_eq_true]
  refine ⟨fun d => ?_, ?_⟩
  · simp only [State.classify, Option.map_eq_some_iff, find?_finRange_eq_some, hmatch, hmiss]
    exact ⟨fun ⟨w, ⟨h1, h2⟩, h3⟩ => ⟨w, h1, h3, h2⟩, fun ⟨w, h1, h3, h2⟩ => ⟨w, ⟨h1, h2⟩, h3⟩⟩
  · simp only [State.classify, Option.map_eq_none_iff, List.find?_eq_none, List.mem_finRange, forall_true_left, hmatch]

/-! ### Window writes -/

/-- Settles O13: without an entry and with room the write is appended, as `appendEntry_placed` says. -/
theorem writeAppendsANewEntry : Obligations.WriteAppendsANewEntry := by
  intro s q d a be data hq hr hw hc hbe hj hn hquota hfree
  have hlookup : ((q.dom d).openBank.lookup a).isSome ≠ true := fun h => by
    obtain ⟨e, he, hea⟩ := lookup_isSome_iff.1 h
    exact hn e he hea
  have hroom : q.acceptWp.hasRoom d = true := by simp [State.hasRoom, hquota, hfree]
  have hexec : exec (.writerPortWrite a be data) s = .next ((q.acceptWp.appendEntry d a be data).answerWp false 0) := by
    rw [exec_writerPortWrite_of_classify data hq hr hw hc,
      windowWrite_of_journals a data hbe (by rwa [State.journals, acceptWp_device, acceptWp_dom]), State.journalWrite,
      if_neg (by rwa [acceptWp_dom]), if_pos hroom]
  exact ⟨_, hexec, by simp [State.appendEntry], placed_of_port (appendEntry_placed (s := q.acceptWp) d a be data hfree)⟩

/-- A write that needs a new entry when none can be had is decided by FULL_POLICY_d (R14, R15). -/
theorem exec_writerPortWrite_of_full {d : Dom} {a : Addr} {be : Lanes} {data : Word} (hq : s.settleForWrite a be = q)
    (hr : s.resetN = true) (hw : s.wp.busy = false) (hc : q.classify a = some d) (hbe : be ≠ 0) (hj : q.journals d)
    (hn : ∀ e ∈ (q.dom d).openBank, e.addr ≠ a) (hfull : q.hasRoom d = false) :
    exec (.writerPortWrite a be data) s = .next (match (q.dom d).params.policy with
      | .wait => q.acceptWp.hold d .space a be data
      | .early => (q.acceptWp.hold d .space a be data).request d .fill
      | .refuse => ((q.acceptWp.bump d .writeFails 1).raise (.dom d .writeFail)).answerWp true 0) := by
  have hlookup : ((q.dom d).openBank.lookup a).isSome ≠ true := fun h => by
    obtain ⟨e, he, hea⟩ := lookup_isSome_iff.1 h
    exact hn e he hea
  have hroom : q.acceptWp.hasRoom d ≠ true := by
    rw [Ne, Bool.not_eq_true]; exact hfull
  rw [exec_writerPortWrite_of_classify data hq hr hw hc,
    windowWrite_of_journals a data hbe (by rwa [State.journals, acceptWp_device, acceptWp_dom]), State.journalWrite,
    if_neg (by rwa [acceptWp_dom]), if_neg hroom]
  cases hp : (q.dom d).params.policy <;> simp only [acceptWp_dom, hp]

/-- Settles O14. -/
theorem fullPolicyDecidesWithoutRoom : Obligations.FullPolicyDecidesWithoutRoom := by
  intro s q d a be data w hq hr hw hc hbe hj hn hfull hwe
  have hexec := exec_writerPortWrite_of_full (data := data) hq hr hw hc hbe hj hn (not_hasRoom_iff.2 hfull)
  have hheld := hold_held (s := q) d .space a be data
  subst hwe
  refine ⟨fun hp => ⟨_, ?_, hheld⟩, fun hp => ⟨_, hheld, ?_⟩, fun hp =>
    ⟨((q.acceptWp.bump d .writeFails 1).raise (.dom d .writeFail)).answerWp true 0, ?_, rfl, ?_, ?_, ?_, ?_, ?_⟩⟩
  · rw [hexec, hp]
  · rw [hexec, hp]
  · rw [hexec, hp]
  · exact counted_congr (bump_counted (s := q.acceptWp) d .writeFails 1) (by simp) (by simp)
  · exact occurred_congr (raise_occurred (s := q.acceptWp.bump d .writeFails 1) (.dom d .writeFail)) (by simp) rfl
  · cases d <;> rfl
  · cases d <;> rfl
  · cases d <;> rfl

/-- Settles O15: R16 and R117 name the reason, and `hold_held` says what is held. -/
theorem lateWindowWriteIsHeld : Obligations.LateWindowWriteIsHeld := by
  intro s q d a be data reason hq hr hw hc hbe hlate
  have hexec := exec_writerPortWrite_of_classify data hq hr hw hc
  have hheld := hold_held (s := q) d reason a be data
  refine ⟨_, ?_, hheld⟩
  rw [hexec, State.windowWrite, if_neg hbe]
  rcases hlate with ⟨hv, rfl⟩ | ⟨hv, hs, rfl⟩
  · rw [if_pos (by rwa [acceptWp_device])]
  · rw [if_neg (by rw [acceptWp_device, hv]; decide), if_pos (by rwa [acceptWp_dom])]

/-- Settles O16. -/
theorem windowWriteOfNoLanesIsAnsweredOk : Obligations.WindowWriteOfNoLanesIsAnsweredOk := by
  intro s q d a data hq hr hw hc
  rw [exec_writerPortWrite_of_classify data hq hr hw hc, State.windowWrite, if_pos rfl]
  rfl

/-! ### Pass-through accesses and refusals -/

theorem wpAccepts_of_free (hr : s.resetN = true) (hb : s.wp.busy = false) : s.wpAccepts = true := by
  simp [State.wpAccepts, hr, hb]

theorem cpAccepts_of_free (hr : s.resetN = true) (hb : s.cp.busy = false) : s.cpAccepts = true := by
  simp [State.cpAccepts, hr, hb]

/-- An accepted consumer write is judged in the state in which it finds the part (R116, R118). -/
theorem exec_consumerPortWrite_of_accepts (a : Addr) (be : Lanes) (data : Word) (hq : s.settleForAccess = q)
    (ha : s.cpAccepts = true) : exec (.consumerPortWrite a be data) s = .next (match q.classify a with
      | some d => q.acceptCp.refuseCpWrite d
      | none => q.acceptCp.presentCp { write := true, addr := a, be := be, data := data }) := by
  subst hq
  exact congrArg Host.Outcome.next (if_neg (by rw [ha]; decide))

/-- Settles O17. -/
theorem passThroughAccessIsPresented : Obligations.PassThroughAccessIsPresented := by
  intro s q p a be data r m k hq hp hr hre hme hke
  subst hre hme hke
  refine ⟨fun hc hb => ?_, fun hc hb => ?_, fun hc hb => ?_, fun hc hb => ?_⟩
  · have ha := wpAccepts_of_free hr hb
    subst hp
    simp only [exec, execWriterPortWrite, ha, hc]
    rfl
  · rw [exec_consumerPortWrite_of_accepts a be data hq (cpAccepts_of_free hr hb), hc]
    rfl
  · have ha := wpAccepts_of_free hr hb
    subst hq
    have hread := startWpRead_of_not_covered (q := s.settleForAccess) (r := passThroughRead a)
      (passThroughRequest a be data) (show (0 : Lanes) ≠ 0xF by decide)
    simp only [exec, execWriterPortRead, ha, hc, hread]
    rfl
  · have ha := cpAccepts_of_free hr hb
    subst hq
    have hread := startCpRead_of_not_covered (q := s.settleForAccess) (r := passThroughRead a)
      (passThroughRequest a be data) (show (0 : Lanes) ≠ 0xF by decide)
    simp only [exec, execConsumerPortRead, ha, hc, hread]
    rfl

/-- Settles O18. -/
theorem consumerWindowWriteIsRefused : Obligations.ConsumerWindowWriteIsRefused := by
  intro s q d a be data hq hr hb hc
  refine ⟨q.acceptCp.refuseCpWrite d, ?_, rfl, ?_, ?_, ?_, ?_, ?_⟩
  · rw [exec_consumerPortWrite_of_accepts a be data hq (cpAccepts_of_free hr hb), hc]
  · exact counted_congr (bump_counted (s := q.acceptCp) d .cpRefusals 1) (by simp) (by simp [State.refuseCpWrite])
  · exact occurred_congr (raise_occurred (s := q.acceptCp.bump d .cpRefusals 1) (.dom d .cpRefused)) (by simp) rfl
  · cases d <;> rfl
  · cases d <;> rfl
  · cases d <;> rfl

/-! ### Byte lanes (R171) -/

/-- Settles O21: bit by bit, with `laneMask_bit`. -/
theorem mergedLanesComeFromTheirWords : Obligations.MergedLanesComeFromTheirWords := by
  intro old new l i
  refine BitVec.eq_of_getLsbD_eq fun j hj => ?_
  have hlt : 8 * i.val + j < 32 := by omega
  have hbit : (laneMask l)[8 * i.val + j] = l.getLsbD i :=
    (BitVec.getLsbD_eq_getElem hlt).symm.trans (laneMask_bit l i ⟨j, hj⟩)
  cases hl : l.getLsbD i
  · simp [laneMerge, hj, hlt, hbit.trans hl]
  · simp [laneMerge, hj, hlt, hbit.trans hl]

end Sys2Proof.Machine
end

section
/-! SUPPORT. The grant, and what memory's answers do (R99, R101, R107 to R112). -/

namespace Sys2Proof.Machine

variable {s t g : State}

/-! ### The grant (R107 to R111) -/

/-- Settles O22: the requester favoured is the one the arbiter chooses. -/
theorem grantGoesToTheFavouredRequester : Obligations.GrantGoesToTheFavouredRequester := by
  intro s hr
  refine ⟨fun w r hm hg hf hw => ?_, fun hn => ?_⟩
  · have hc : s.arb.choose = some w := choose_eq_some.2 ⟨hf, by rw [hw]; rfl⟩
    have hgrant : s.arb.grant w r s.memTimeout.toNat =
        { cpReq := if w = .cp then none else s.arb.cpReq
          drainReq := if w = .drain then none else s.arb.drainReq
          wpReq := if w = .wp then none else s.arb.wpReq
          cpWait := if w = .cp then 0 else s.arb.cpWait + one s.arb.cpReq.isSome
          drainWait := if w = .drain then 0 else s.arb.drainWait + one s.arb.drainReq.isSome
          wpWait := if w = .wp then 0 else s.arb.wpWait + one s.arb.wpReq.isSome
          mp := if s.arb.cancel then none else some { who := w, req := r, left := s.memTimeout.toNat }
          granted := if s.arb.cancel then some { who := w, req := r } else none
          cancel := s.arb.cancel } := by
      unfold Arbiter.grant
      rw [waitAfter_eq, waitAfter_eq, waitAfter_eq]
      cases w <;> rfl
    rw [← hgrant]
    exact congrArg (fun o : Option State => Host.Outcome.next (o.getD s))
      (tryGrant_eq_some.2 ⟨w, r, hr, hm, hg, hc, hw, rfl⟩)
  · refine congrArg (fun o : Option State => Host.Outcome.next (o.getD s)) (tryGrant_eq_none.2 fun _ hm hg => ?_)
    rcases hn with hn | hn | hn
    · rw [hm] at hn; cases hn
    · rw [hg] at hn; cases hn
    · exact hn

/-! ### Memory's answers (R99, R101, R110, R112) -/

/-- An answer is delivered to the owner of the access on MP, once a grant that was due has been taken (log 3). -/
theorem exec_memoryAnswer_of_mp {o : Outstanding} (err : Bool) (data : Word) (hs : s.settle = g) (hr : g.resetN = true)
    (hm : g.arb.mp = some o) : exec (.memoryAnswer err data) s = .next (g.endAccess.deliver o err data) := by
  subst hs
  refine congrArg Host.Outcome.next ((if_neg (by rw [hr]; decide)).trans ?_)
  rw [hm]

theorem exec_memoryAnswer_of_none (err : Bool) (data : Word) (hs : s.settle = g) (hm : g.arb.mp = none) :
    exec (.memoryAnswer err data) s = .next g := by
  subst hs
  refine congrArg Host.Outcome.next ?_
  split
  · rfl
  · rw [hm]

section
variable {e : Element} {rest : List Element} {first : Entry} {bank : Bank}

theorem retire_counted (lost : Bool) (hq : s.queue = e :: rest) (hb : (s.dom e.dom).drainBank = first :: bank) :
    s.counted (s.retire lost) e.dom fun c => if c = .lostEntries then one lost else 0 := by
  have hret : ((s.retired e rest bank).dom e.dom).counters = (s.dom e.dom).counters := by
    unfold State.retired
    generalize e.dom = d
    cases d <;> rfl
  rw [retire_eq lost hq hb]
  cases lost
  · intro c
    have hz : (if c = .lostEntries then one false else 0) = 0 := by split <;> rfl
    dsimp only
    rw [hz, satAdd_zero]
    exact counter_congr ((congrArg Domain.counters (presentDrain_dom _ bank e.dom)).trans hret) c
  · exact counted_congr (bump_counted (s := s.retired e rest bank) e.dom .lostEntries 1) hret
      (by simp [State.noteLost])

theorem retire_occurred (lost : Bool) (hq : s.queue = e :: rest) (hb : (s.dom e.dom).drainBank = first :: bank) :
    s.occurred (s.retire lost) fun v => lost && decide (v = .dom e.dom .memError) := by
  have hret : (s.retired e rest bank).events = s.events := by simp [State.retired]
  rw [retire_eq lost hq hb]
  cases lost
  · exact fun v => event_congr hret v
  · have hn : ∀ u : State, (u.noteLost e).events = (u.raise (.dom e.dom .memError)).events := fun u => by
      simp [State.noteLost, State.raise]
    exact occurred_congr (raise_occurred (s := s.retired e rest bank) (.dom e.dom .memError)) hret (hn _)

/-- The loss of an entry is counted in the PENDING record of its element (R101, R137). -/
theorem lossNoted_eq (e : Element) (lost : Bool) : s.lossNoted e lost = s.history.map fun r =>
    if lost = true ∧ r.serial = e.serial ∧ r.dom = e.dom ∧ r.drain = .pending then { r with lost := r.lost + 1 } else r := by
  unfold State.lossNoted
  cases lost
  · simp
  · refine List.map_congr_left fun r _ => ?_
    by_cases hk : r.isOf e = true
    · rw [if_pos hk, if_pos ⟨rfl, isOf_iff.1 hk⟩]
    · rw [if_neg hk, if_neg fun k => hk (isOf_iff.2 k.2)]

end

/-- Settles O23: the answer retires the entry, and the lemmas of `State.retire` say what that does. -/
theorem drainAnswerRetiresTheEntry : Obligations.DrainAnswerRetiresTheEntry := by
  intro s g o e rest first bank err data hs hr hm ho hq hb
  have hexec : exec (.memoryAnswer err data) s = .next (g.endAccess.retire err) := by
    rw [exec_memoryAnswer_of_mp err data hs hr hm, State.deliver, ho]
  have hdom : ∀ d, g.endAccess.dom d = g.dom d := fun d => dom_congr rfl rfl d
  have hb' : (g.endAccess.dom e.dom).drainBank = first :: bank := by rw [hdom]; exact hb
  have hx := retire_uncounted (s := g.endAccess) err hq hb'
  have hy := retire_dom_otherDom (s := g.endAccess) err hq hb'
  have hout := retire_outside (s := g.endAccess) err hq hb'
  have hhist : (g.endAccess.retire err).history = g.endAccess.lossNoted e err := by
    simpa using congrArg State.history hout
  have harb : (g.endAccess.retire err).arb =
      { g.endAccess.arb with drainReq := bank.head?.map Entry.drainWrite, drainWait := 0 } := by
    simpa using congrArg State.arb hout
  rw [hdom] at hx hy
  refine ⟨_, hexec, by simpa using congrArg State.queue hout, retire_free err hq hb',
    (congrArg (fun y : Domain => { y with counters := (g.dom e.dom).counters }) hx :),
    harb, ?_, hhist.trans (lossNoted_eq e err),
    occurred_congr (retire_occurred (s := g.endAccess) err hq hb') rfl rfl, hy, ?_⟩
  · exact counted_congr (retire_counted (s := g.endAccess) err hq hb') (by rw [hdom]) rfl
  · exact (congrArg (fun u : State => { u with
      dom0 := g.dom0, dom1 := g.dom1, queue := g.queue, free := g.free, arb := g.arb, history := g.history
      events := g.events }) hout :)

/-- R112. -/
theorem countError_devCounted (err : Bool) :
    s.devCounted (s.countError err) fun c => if c = .passErrors then one err else 0 := by
  cases err
  · intro c
    have hz : (if c = .passErrors then one false else 0) = 0 := by split <;> rfl
    dsimp only
    rw [hz, satAdd_zero]
    rfl
  · exact bumpDev_counted .passErrors

/-- The fence of a fenced read is cleared (R97). -/
theorem unfenced_eq (k : ReadRecord) (e : Element) :
    e.unfenced (some k) = if k.fenced = true ∧ k.path = .resolved e.dom then { e with fence := false } else e := by
  simp only [Element.unfenced, Option.any_some, Bool.and_eq_true, decide_eq_true_eq]

/-- Settles O24. -/
theorem readAnswerIsMergedAndRelayed : Obligations.ReadAnswerIsMergedAndRelayed := by
  intro s g o k err data hs hr hm hw
  refine ⟨fun ho hk => ⟨_, exec_memoryAnswer_of_mp err data hs hr hm, ?_⟩,
    fun ho hk => ⟨_, exec_memoryAnswer_of_mp err data hs hr hm, ?_⟩⟩
  · rw [deliver_cp_read err data ho hw]
    have hdata : readData err g.endAccess.cpRead data = if err then 0 else laneMerge data k.bytes k.covered := by
      rw [show g.endAccess.cpRead = some k from hk]; rfl
    refine ⟨by rw [hdata]; rfl, rfl, ?_, rfl, ?_, rfl⟩
    · rw [show g.endAccess.cpRead = some k from hk]
      exact List.map_congr_left fun e _ => unfenced_eq k e
    · exact devCounted_congr (countError_devCounted (s := g.endAccess) err) rfl rfl
  · rw [deliver_wp_read err data ho hw]
    have hdata : readData err g.endAccess.wpRead data = if err then 0 else laneMerge data k.bytes k.covered := by
      rw [show g.endAccess.wpRead = some k from hk]; rfl
    refine ⟨by rw [hdata]; rfl, rfl, rfl, ?_, rfl⟩
    exact devCounted_congr (countError_devCounted (s := g.endAccess) err) rfl rfl

/-- Settles O25. -/
theorem passThroughWriteAnswerIsRelayed : Obligations.PassThroughWriteAnswerIsRelayed := by
  intro s g o err data hs hr hm hw
  refine ⟨fun ho => ⟨_, exec_memoryAnswer_of_mp err data hs hr hm, ?_⟩,
    fun ho => ⟨_, exec_memoryAnswer_of_mp err data hs hr hm, ?_⟩⟩
  · rw [deliver_cp_write err data ho hw]
    exact ⟨rfl, rfl, devCounted_congr (countError_devCounted (s := g.endAccess) err) rfl rfl, rfl⟩
  · rw [deliver_wp_write err data ho hw]
    exact ⟨rfl, rfl, devCounted_congr (countError_devCounted (s := g.endAccess) err) rfl rfl, rfl⟩

end Sys2Proof.Machine
end

section
/-! SUPPORT. The withdrawal of an access, and what the instants and the edge of CLK leave of MP (R111, R172). -/

namespace Sys2Proof.Machine

variable {s t : State} {h : Hold}

/-! ### The withdrawal and the answer ERR (R111) -/

/-- The state with MP_CANCEL high. -/
def State.cancelling (s : State) : State := { s with arb := { s.arb with cancel := true } }

theorem presentDrain_cancelling (b : Bank) : s.cancelling.presentDrain b = (s.presentDrain b).cancelling := rfl

theorem noteLost_cancelling (e : Element) : s.cancelling.noteLost e = (s.noteLost e).cancelling := by
  unfold State.noteLost State.bump
  generalize e.dom = d
  cases d <;> rfl

theorem retired_cancelling (e : Element) (rest : List Element) (bank : Bank) :
    s.cancelling.retired e rest bank = (s.retired e rest bank).cancelling := by
  unfold State.retired
  generalize e.dom = d
  cases d <;> rfl

/-- An answer does the same, MP_CANCEL apart. -/
theorem deliver_cancelling (o : Outstanding) (err : Bool) (mem : Word) :
    s.cancelling.deliver o err mem = (s.deliver o err mem).cancelling := by
  have hcount : (s.cancelling.countError err).devCounters = (s.countError err).devCounters := by cases err <;> rfl
  cases ho : o.who with
  | cp =>
    cases hw : o.req.write
    · rw [deliver_cp_read err mem ho hw, deliver_cp_read err mem ho hw, hcount]; rfl
    · rw [deliver_cp_write err mem ho hw, deliver_cp_write err mem ho hw, hcount]; rfl
  | wp =>
    cases hw : o.req.write
    · rw [deliver_wp_read err mem ho hw, deliver_wp_read err mem ho hw, hcount]; rfl
    · rw [deliver_wp_write err mem ho hw, deliver_wp_write err mem ho hw, hcount]; rfl
  | drain =>
    have hd : ∀ u : State, u.deliver o err mem = u.retire err := fun u => by simp only [State.deliver, ho]
    rw [hd, hd]
    match hq : s.queue with
    | [] => rw [retire_of_nil (s := s.cancelling) err (.inl hq), retire_of_nil err (.inl hq)]
    | e :: rest =>
      have hdom : s.cancelling.dom e.dom = s.dom e.dom := dom_congr rfl rfl _
      match hb : (s.dom e.dom).drainBank with
      | [] =>
        rw [retire_of_nil err (.inr ⟨e, rest, hq, hb⟩),
          retire_of_nil (s := s.cancelling) err (.inr ⟨e, rest, hq, by rw [hdom]; exact hb⟩)]
      | first :: bank =>
        rw [retire_eq err hq hb, retire_eq err (s := s.cancelling) hq (by rw [hdom]; exact hb), retired_cancelling,
          noteLost_cancelling]
        cases err <;> rfl

theorem withdraw_of_mp {o : Outstanding} (hm : s.arb.mp = some o) :
    s.withdraw = (s.endAccess.deliver o true 0).cancelling := by
  rw [← deliver_cancelling]
  simp only [State.withdraw, hm]
  rfl

/-! ### MP over the instants -/

/-- What MP shows: the access on it, the grant that waits, and MP_CANCEL. -/
def Arbiter.port (a : Arbiter) : Option Outstanding × Option Granted × Bool := (a.mp, a.granted, a.cancel)

theorem commit_arb (d : Dom) (b : Boundary) : (s.commit d b).arb = s.arb := by
  simpa using congrArg State.arb (commit_outside (s := s) d b)

theorem endDrain_arb (e : Element) (rest : List Element) : (s.endDrain e rest).arb = s.arb := by
  simpa using congrArg State.arb (endDrain_outside (s := s) e rest)

theorem completeRestart_port : s.completeRestart.arb.port = s.arb.port := by
  rw [completeRestart_eq]
  rcases releaseRestart_cases s.restartEnded with ⟨w, -, -, e⟩ | ⟨-, e⟩ <;> rw [e] <;> rfl

/-- An instant leaves what MP shows, but for the grant, which is made with the port free (R107). -/
theorem advance_port (ha : s.advance h = some t) : t.arb.port = s.arb.port ∨
    (s.arb.mp = none ∧ s.arb.granted = none ∧ ∃ w q, t.arb = s.arb.grant w q s.memTimeout.toNat) := by
  rcases advance_cases ha with h' | h' | ⟨d, -, h'⟩ | h' | h' | h' | ⟨-, h'⟩
  · obtain ⟨w, -, -, -, -, rfl⟩ := tryPlace_eq_some.1 h'
    exact .inl (congrArg Arbiter.port (by simp [State.placeHeld, State.appendEntry]))
  · obtain ⟨e, r, -, -, -, -, rfl⟩ := tryDrainEnd_eq_some.1 h'
    exact .inl (congrArg Arbiter.port (endDrain_arb e r))
  · obtain ⟨b, g, l, -, -, -, rfl⟩ := tryCommit_eq_some.1 h'
    exact .inl (congrArg Arbiter.port (commit_arb d b))
  · obtain ⟨w, -, -, -, -, rfl⟩ := tryRelease_eq_some.1 h'; exact .inl rfl
  · obtain ⟨e, r, -, -, -, -, -, rfl⟩ := tryBegin_eq_some.1 h'; exact .inl rfl
  · obtain ⟨-, -, -, rfl⟩ := tryRestart_eq_some.1 h'; exact .inl completeRestart_port
  · obtain ⟨w, m, -, hm, hg, -, -, rfl⟩ := tryGrant_eq_some.1 h'; exact .inr ⟨hm, hg, w, m, rfl⟩

/-- While MP is taken, or a grant waits for it, the instants leave what MP shows. -/
theorem settleHolding_port (hb : s.arb.mp.isSome = true ∨ s.arb.granted.isSome = true) :
    (s.settleHolding h).arb.port = s.arb.port := by
  refine settleHolding_induct (P := fun u => u.arb.port = s.arb.port) (fun u v hu ha => ?_) rfl
  rcases advance_port ha with hp | ⟨hm, hg, -⟩
  · exact hp.trans hu
  · simp only [Arbiter.port, Prod.mk.injEq] at hu
    rw [← hu.1, hm, ← hu.2.1, hg] at hb
    rcases hb with hb | hb <;> cases hb

/-- R172: MP_CANCEL is high, and no access is on MP. -/
def State.Cancelled (s : State) : Prop := s.arb.mp = none ∧ s.arb.cancel = true

/-- In the CLK period of MP_CANCEL no access is issued, whatever is granted (R111). -/
theorem State.Cancelled.settleHolding (hc : s.Cancelled) : (s.settleHolding h).Cancelled := by
  refine settleHolding_induct (P := State.Cancelled) (fun u v hu ha => ?_) hc
  rcases advance_port ha with hp | ⟨-, -, w, q, hv⟩
  · simp only [Arbiter.port, Prod.mk.injEq] at hp
    exact ⟨hp.1.trans hu.1, hp.2.2.trans hu.2⟩
  · exact ⟨by rw [hv]; exact if_pos hu.2, by rw [hv]; exact hu.2⟩

theorem State.Cancelled.of_port (hc : s.Cancelled) (hp : t.arb.port = s.arb.port) : t.Cancelled := by
  simp only [Arbiter.port, Prod.mk.injEq] at hp
  exact ⟨hp.1.trans hc.1, hp.2.2.trans hc.2⟩

/-- The limits that end with a tick leave MP (R26). -/
theorem State.Cancelled.domExpiries (hc : s.Cancelled) (d : Dom) : (s.domExpiries d).Cancelled := by
  have htimer : ∀ u : State, u.Cancelled → (u.endTimer d).Cancelled := fun u hu => by
    refine hu.of_port (congrArg Arbiter.port ?_)
    unfold State.endTimer State.expireTimer
    split
    · split
      · rfl
      · rw [request_arb, updDom_arb]
    · rfl
  have hgroup : ∀ u : State, u.Cancelled → (u.endGroupHold d).Cancelled := fun u hu => by
    refine hu.of_port (congrArg Arbiter.port ?_)
    unfold State.endGroupHold
    split
    · rw [updDom_arb]
    · rfl
  have hsample : ∀ u : State, u.Cancelled → (u.endSampleHold d).Cancelled := fun u hu => by
    refine hu.of_port (congrArg Arbiter.port ?_)
    unfold State.endSampleHold
    split
    · rw [updDom_arb]
    · rfl
  exact (hsample _ (hgroup _ (htimer _ hc).settleHolding).settleHolding).settleHolding

theorem State.Cancelled.endTick (hc : s.Cancelled) : s.endTick.Cancelled := by
  have hwrite : ∀ u : State, u.Cancelled → u.endWriteHold.Cancelled := fun u hu => by
    refine hu.of_port (congrArg Arbiter.port ?_)
    unfold State.endWriteHold
    split
    · split
      · simp [State.expireHeld]
      · rfl
    · rfl
  have htick : ({ s with time := { tick := s.time.tick + 1, clk := 0, tickLen := s.tickDiv } } : State).tickLimits.Cancelled :=
    ⟨by simp [State.tickLimits, hc.1], hc.2⟩
  exact (((hwrite _ htick).settleHolding).domExpiries .d0).domExpiries .d1

theorem deliver_port (o : Outstanding) (err : Bool) (mem : Word) : (s.deliver o err mem).arb.port = s.arb.port := by
  unfold State.deliver
  split
  · match hq : s.queue with
    | [] => rw [retire_of_nil err (.inl hq)]
    | e :: rest =>
      match hb : (s.dom e.dom).drainBank with
      | [] => rw [retire_of_nil err (.inr ⟨e, rest, hq, hb⟩)]
      | first :: bank =>
        have harb : (s.retire err).arb = { s.arb with drainReq := bank.head?.map Entry.drainWrite, drainWait := 0 } := by
          simpa using congrArg State.arb (retire_outside err hq hb)
        rw [harb]; rfl
  · rw [countError_arb]
    split
    · rfl
    · rw [finishCpRead_arb]
  · rw [countError_arb]
    split <;> rfl

/-! ### The idle step over MP -/

theorem step_idle (hp : s.pending = []) : step s = .next s.clkPeriod := by
  unfold step
  rw [hp]

/-- The state in which an idle step has taken what the edge of CLK brings. -/
def State.edge (s : State) : State := s.endAnswers.settle.endCancel.edgeOfMp.settle

theorem clkPeriod_eq (hr : s.resetN = true) : s.clkPeriod =
    if s.edge.time.clk + 1 < s.edge.time.tickLen.toNat then
      { s.edge with time := { s.edge.time with clk := s.edge.time.clk + 1 } }
    else s.edge.endTick := by
  unfold State.clkPeriod
  rw [if_neg (by rw [hr]; decide)]
  rfl

/-- An access whose MEM_TIMEOUT has expired is withdrawn at the edge (R111). -/
theorem edge_cancelled {o : Outstanding} (hg : s.arb.granted = none) (hm : s.arb.mp = some o) (ho : o.left = 0) :
    s.edge.Cancelled := by
  have hp : s.endAnswers.settle.arb.port = s.arb.port :=
    settleHolding_port (s := s.endAnswers) (.inl (by rw [show s.endAnswers.arb.mp = some o from hm]; rfl))
  simp only [Arbiter.port, Prod.mk.injEq] at hp
  have hend : s.endAnswers.settle.endCancel.arb.mp = some o := by
    unfold State.endCancel Arbiter.endCancel
    rw [hp.2.1, hg]
    exact hp.1.trans hm
  refine State.Cancelled.settleHolding ?_
  unfold State.edgeOfMp
  rw [hend]
  dsimp only
  rw [if_pos ho, withdraw_of_mp hend]
  have hd := deliver_port (s := s.endAnswers.settle.endCancel.endAccess) o true 0
  simp only [Arbiter.port, Prod.mk.injEq] at hd
  exact ⟨hd.1, rfl⟩

/-- An access granted in the period of MP_CANCEL is issued at the edge that ends it (R111, R172). -/
theorem edge_issued {k : Granted} (hn : s.memTimeout ≠ 0) (hg : s.arb.granted = some k) :
    s.edge.arb.port = (some { who := k.who, req := k.req, left := s.memTimeout.toNat }, none, false) := by
  have hp : s.endAnswers.settle.arb.port = s.arb.port :=
    settleHolding_port (s := s.endAnswers) (.inr (by rw [show s.endAnswers.arb.granted = some k from hg]; rfl))
  simp only [Arbiter.port, Prod.mk.injEq] at hp
  have hlimit : s.endAnswers.settle.memTimeout = s.memTimeout := congrArg Still.memTimeout settleHolding_still
  have hend : s.endAnswers.settle.endCancel.arb.port =
      (some { who := k.who, req := k.req, left := s.memTimeout.toNat }, none, false) := by
    unfold State.endCancel Arbiter.endCancel
    rw [hp.2.1, hg, hlimit]
    rfl
  have hmp : s.endAnswers.settle.endCancel.arb.mp = some { who := k.who, req := k.req, left := s.memTimeout.toNat } :=
    congrArg Prod.fst hend
  have hstay : s.endAnswers.settle.endCancel.edgeOfMp = s.endAnswers.settle.endCancel := by
    unfold State.edgeOfMp
    rw [hmp]
    refine if_neg fun h0 => hn ?_
    exact BitVec.eq_of_toNat_eq h0
  rw [State.edge, hstay]
  exact (settleHolding_port (.inl (by rw [hmp]; rfl))).trans hend

theorem edgeOfMp_still : s.edgeOfMp.still = s.still := by
  unfold State.edgeOfMp State.withdraw
  split
  · split
    · split
      · rfl
      · exact deliver_still _ _ _
    · rfl
  · rfl

theorem edge_still : s.edge.still = s.still :=
  settleHolding_still.trans (edgeOfMp_still.trans (settleHolding_still (s := s.endAnswers)))

/-- Settles O26. -/
theorem timeoutWithdrawsTheAccess : Obligations.TimeoutWithdrawsTheAccess := by
  intro s g err data hs hr
  have hgr : g.resetN = true := hs ▸ settle_resetN.trans hr
  refine ⟨fun hm => ?_, fun hm => ⟨?_, exec_memoryAnswer_of_none err data hs hm⟩, fun o hp hg hm ho => ?_,
    fun k hp hn hclk hg => ?_⟩
  · obtain ⟨o, ho⟩ := Option.isSome_iff_exists.1 hm
    refine ⟨_, exec_memoryAnswer_of_mp true 0 hs hgr ho, ?_⟩
    rw [show exec .memTimeoutExpiry s = .next g.withdraw.settle by
      subst hs
      exact congrArg Host.Outcome.next (if_pos (by rw [hgr, hm]; rfl)), withdraw_of_mp ho]
    rfl
  · subst hs
    exact congrArg Host.Outcome.next (if_neg (by rw [hm]; simp))
  · have hc := edge_cancelled hg hm ho
    refine ⟨s.clkPeriod, step_idle hp, ?_⟩
    have ht : s.clkPeriod.Cancelled := by
      rw [clkPeriod_eq hr]
      split
      · exact hc
      · exact hc.endTick
    exact ⟨by rw [State.mpReq, ht.1]; rfl, ht.2⟩
  · have hport := edge_issued hn hg
    simp only [Arbiter.port, Prod.mk.injEq] at hport
    have htime : s.edge.time = s.time := congrArg Still.time edge_still
    refine ⟨s.clkPeriod, step_idle hp, ?_⟩
    rw [clkPeriod_eq hr, if_pos (by rw [htime]; exact hclk)]
    exact hport

end Sys2Proof.Machine
end

section
/-! SUPPORT. The time base over an idle step, what is due, and the edge of CLK with nothing due (R25, R39, R170). -/

namespace Sys2Proof.Machine

variable {s t : State} {h : Hold}

/-! ### The time base over an idle step (R25) -/

theorem noteMerge_still (d : Dom) : (s.noteMerge d).still = s.still := (raise_still _).trans (bump_still d _ _)

theorem request_still (d : Dom) (c : Cause) : (s.request d c).still = s.still := by
  rcases request_cases s d c with e | ⟨-, ⟨-, -, -, e⟩ | ⟨-, e⟩ | ⟨b, -, e⟩ | ⟨b, g, l, -, e⟩⟩ <;> rw [e]
  · exact updDom_still d rfl
  · exact updDom_still d rfl
  · exact (noteMerge_still d).trans (updDom_still d rfl)
  · exact (noteMerge_still d).trans (updDom_still d rfl)

theorem expireTimer_still (d : Dom) : (s.expireTimer d).still = s.still := by
  unfold State.expireTimer
  split
  · rfl
  · exact (request_still d .timer).trans (updDom_still d rfl)

theorem expireGroupHold_params (x : Domain) : x.expireGroupHold.params = x.params := by
  unfold Domain.expireGroupHold; split <;> rfl

theorem expireSampleHold_params (x : Domain) : x.expireSampleHold.params = x.params := by
  unfold Domain.expireSampleHold; split <;> rfl

theorem expireHeld_still (w : HeldWrite) : (s.expireHeld w).still = s.still :=
  (answerWp_still _ _).trans ((raise_still _).trans (bump_still (s := { s with held := none }) w.dom _ _))

theorem endWriteHold_still : s.endWriteHold.still = s.still := by
  unfold State.endWriteHold
  split
  · split
    · exact expireHeld_still _
    · rfl
  · rfl

theorem domExpiries_still (d : Dom) : (s.domExpiries d).still = s.still := by
  have htimer : ∀ u : State, (u.endTimer d).still = u.still := fun u => by
    unfold State.endTimer; split
    · exact expireTimer_still d
    · rfl
  have hgroup : ∀ u : State, (u.endGroupHold d).still = u.still := fun u => by
    unfold State.endGroupHold; split
    · exact updDom_still d (expireGroupHold_params _)
    · rfl
  have hsample : ∀ u : State, (u.endSampleHold d).still = u.still := fun u => by
    unfold State.endSampleHold; split
    · exact updDom_still d (expireSampleHold_params _)
    · rfl
  exact settleHolding_still.trans ((hsample _).trans (settleHolding_still.trans ((hgroup _).trans
    (settleHolding_still.trans (htimer s)))))

/-- The state at the end of a tick before any limit expires (R25, R26). -/
def State.ticked (s : State) : State :=
  ({ s with time := { tick := s.time.tick + 1, clk := 0, tickLen := s.tickDiv } } : State).tickLimits

theorem endTick_eq : s.endTick = ((s.ticked.endWriteHold.settle).domExpiries .d0).domExpiries .d1 := rfl

theorem endTick_time : s.endTick.time = { tick := s.time.tick + 1, clk := 0, tickLen := s.tickDiv } := by
  have h : s.endTick.still = s.ticked.still := by
    rw [endTick_eq, domExpiries_still, domExpiries_still, State.settle, settleHolding_still, endWriteHold_still]
  generalize s.endTick = u at h
  exact congrArg Still.time h

theorem clkPeriod_time : s.clkPeriod.time =
    if s.resetN = false then s.time
    else if s.time.clk + 1 < s.time.tickLen.toNat then { s.time with clk := s.time.clk + 1 }
    else { tick := s.time.tick + 1, clk := 0, tickLen := s.tickDiv } := by
  cases hr : s.resetN
  · simp [State.clkPeriod, hr]
  · have htime : s.edge.time = s.time := congrArg Still.time edge_still
    have hdiv : s.edge.tickDiv = s.tickDiv := congrArg Still.tickDiv edge_still
    rw [clkPeriod_eq hr, htime, if_neg (show ¬ true = false by decide)]
    generalize s.edge = u at htime hdiv
    by_cases hc : s.time.clk + 1 < s.time.tickLen.toNat
    · rw [if_pos hc, if_pos hc]
    · rw [if_neg hc, if_neg hc, endTick_time, htime, hdiv]

/-! ### What is due -/

/-- The pending boundary of a scheduler in SETTLE. -/
def Sched.settled : Sched → Option Boundary
  | .settle b _ _ => some b
  | .idle => none
  | .drainWait _ => none

theorem settled_iff {k : Sched} {b : Boundary} : k.settled = some b ↔ ∃ g l, k = .settle b g l := by
  cases k <;> simp [Sched.settled]

/-- What the instants' conditions read of a domain. -/
def Domain.duePart (x : Domain) := (x.openBank, x.drainBank, x.params.quota, x.state, x.sampleN, x.sched.settled)

/-- What the instants' conditions read of the state, but for the grant's. -/
def State.duePart (s : State) :=
  (s.dom0.duePart, s.dom1.duePart, s.held.map HeldWrite.outline, s.queue, s.engine, s.device, s.free, s.windows, s.groups,
    s.groupStates)

theorem State.NothingDue.congr (hn : s.NothingDue h) (hd : t.duePart = s.duePart)
    (hg : h.grant = false → t.arb.mp = none → t.arb.granted = none → ∀ w, t.arb.request w = none) : t.NothingDue h := by
  simp only [State.duePart, Prod.mk.injEq] at hd
  obtain ⟨h0, h1, hheld, hq, he, hv, hf, hwin, hgr, hgs⟩ := hd
  have hx : ∀ d, (t.dom d).duePart = (s.dom d).duePart := fun d => by cases d <;> assumption
  simp only [Domain.duePart, Prod.mk.injEq] at hx
  have hw : ∀ w, t.held = some w → ∃ v, s.held = some v ∧ v.dom = w.dom ∧ v.reason = w.reason := fun w hw => by
    rw [hw, Option.map_some] at hheld
    obtain ⟨v, hv, hvw⟩ := Option.map_eq_some_iff.1 hheld.symm
    simp only [HeldWrite.outline, Prod.mk.injEq] at hvw
    exact ⟨v, hv, hvw⟩
  have hdom : ∀ i, t.groupDom i = s.groupDom i := fun i => by
    simp only [State.groupDom, State.groupWindow, hwin, hgr]
  have hstate : ∀ i, t.groupState i = s.groupState i := fun i => by
    simp only [State.groupState, State.inForce, State.groupWindow, hwin, hgr, hgs] <;> rfl
  constructor
  · intro w hwt hs
    obtain ⟨v, hv, hvd, hvr⟩ := hw w hwt
    rw [(hx _).1, (hx _).2.2.1, hf, ← hvd]
    exact hn.place v hv (hvr.trans hs)
  · intro e rest hqe hp
    rw [(hx _).2.1]; exact hn.drainEnd e rest (hq ▸ hqe) hp
  · intro d b g l hs hc
    obtain ⟨g', l', hs'⟩ := settled_iff.1 ((hx d).2.2.2.2.2.symm.trans (settled_iff.2 ⟨g, l, hs⟩))
    simp only [hdom, hstate, (hx d).2.2.2.2.1]
    exact hn.commit d b g' l' hs' hc
  · intro w hwt hs
    obtain ⟨v, hv, hvd, hvr⟩ := hw w hwt
    rw [(hx _).2.2.2.1, ← hvd]
    exact hn.release v hv (hvr.trans hs)
  · rw [hq, he]; exact hn.begin
  · rw [hv, hq]; exact hn.restart
  · exact hg

/-- What is held back besides takes nothing more from what is due. -/
theorem State.NothingDue.hold (hn : s.NothingDue {}) (h : Hold) : s.NothingDue h :=
  ⟨hn.place, hn.drainEnd, fun d b g l hs _ => hn.commit d b g l hs (by simp), hn.release, hn.begin, hn.restart,
    fun _ => hn.grant rfl⟩

theorem State.NothingDue.endAnswers (hn : s.NothingDue {}) : s.endAnswers.NothingDue {} := hn.congr rfl hn.grant

theorem State.NothingDue.endCancel (hn : s.NothingDue {}) : s.endCancel.NothingDue {} := by
  refine hn.congr rfl fun _ hmp _ w => ?_
  rw [show s.endCancel.arb.request w = s.arb.request w from request_endCancel _]
  unfold State.endCancel Arbiter.endCancel at hmp
  cases hg : s.arb.granted with
  | none =>
    rw [hg] at hmp
    exact hn.grant rfl hmp hg w
  | some k =>
    rw [hg] at hmp
    cases hmp

theorem tickLimits_duePart (x : Domain) : x.tickLimits.duePart = x.duePart := by
  unfold Domain.tickLimits Domain.duePart
  cases x.sched <;> rfl

theorem State.NothingDue.ticked (hn : s.NothingDue {}) : s.ticked.NothingDue {} := by
  have hheld : s.ticked.held.map HeldWrite.outline = s.held.map HeldWrite.outline := Option.map_map ..
  have hdue : s.ticked.duePart = s.duePart := by
    rw [State.duePart, hheld, show s.ticked.dom0 = s.dom0.tickLimits from rfl,
      show s.ticked.dom1 = s.dom1.tickLimits from rfl, tickLimits_duePart, tickLimits_duePart]
    rfl
  exact hn.congr hdue fun hg hm hgr w => hn.grant hg (Option.map_eq_none_iff.1 hm) hgr w

/-- The access outstanding after the edge has CLK periods left, if one outstanding before has and MEM_TIMEOUT gives some. -/
theorem endCancel_left (hl : s.arb.granted = none ∨ s.memTimeout ≠ 0) (hm : ∀ o, s.arb.mp = some o → o.left ≠ 0) :
    ∀ o, s.endCancel.arb.mp = some o → o.left ≠ 0 := by
  intro o ho
  unfold State.endCancel Arbiter.endCancel at ho
  cases hg : s.arb.granted with
  | none =>
    rw [hg] at ho
    exact hm o ho
  | some k =>
    rw [hg] at ho
    rw [← Option.some.inj ho]
    rcases hl with hl | hl
    · cases hl.symm.trans hg
    · exact fun h0 => hl (BitVec.eq_of_toNat_eq h0)

/-- With nothing due and no limit of MP ended, the edge of CLK ends the answers and MP_CANCEL alone. -/
theorem edge_of_nothingDue (hr : s.resetN = true) (hn : s.NothingDue {}) (hl : s.arb.granted = none ∨ s.memTimeout ≠ 0)
    (hm : ∀ o, s.arb.mp = some o → o.left ≠ 0) : s.edge = s.endAnswers.endCancel := by
  have hleft := endCancel_left (s := s.endAnswers) hl hm
  have hmp : s.endAnswers.endCancel.edgeOfMp = s.endAnswers.endCancel := by
    unfold State.edgeOfMp
    split
    · next o ho => exact if_neg (hleft o ho)
    · rfl
  rw [State.edge, settle_of_nothingDue (s := s.endAnswers) hr hn.endAnswers, hmp,
    settle_of_nothingDue (s := s.endAnswers.endCancel) hr hn.endAnswers.endCancel]

end Sys2Proof.Machine
end

section
/-! SUPPORT. Limits that run: instants and requests start none with nothing to count (R26, R28, R38). -/

namespace Sys2Proof.Machine

variable {s t u : State} {h : Hold}

/-! ### Limits that run (R26, R28, R38) -/

/-- No limit of the domain has ended, and none of them starts with no tick to count (R28, R38, Table 5.2). -/
structure Domain.LimitsRun (x : Domain) : Prop where
  timer : x.timer ≠ some 0
  sched : ∀ b g l, x.sched = .settle b g l → g ≠ some 0 ∧ l ≠ some 0
  period : x.params.period ≠ 0
  groupHold : x.params.groupHold ≠ 0
  sampleHold : x.params.sampleHold ≠ 0

/-- What `Domain.LimitsRun` reads. -/
def Domain.limits (x : Domain) := (x.timer, x.sched, x.params)

theorem limits_eq_iff {x y : Domain} : y.limits = x.limits ↔ y.timer = x.timer ∧ y.sched = x.sched ∧ y.params = x.params := by
  simp [Domain.limits]

theorem Domain.LimitsRun.congr {x y : Domain} (hx : x.LimitsRun) (hl : y.limits = x.limits) : y.LimitsRun := by
  obtain ⟨ht, hs, hp⟩ := limits_eq_iff.1 hl
  exact ⟨ht ▸ hx.timer, hs ▸ hx.sched, hp ▸ hx.period, hp ▸ hx.groupHold, hp ▸ hx.sampleHold⟩

theorem toNat_ne_zero {n : Nat} {v : BitVec n} (hv : v ≠ 0) : some v.toNat ≠ some 0 := fun h =>
  hv (BitVec.eq_of_toNat_eq (Option.some.inj h))

/-- A boundary that starts SETTLE starts its limits with ticks to count. -/
theorem Domain.LimitsRun.enterSettle {x : Domain} (hx : x.LimitsRun) (b : Boundary) : (x.enterSettle b).LimitsRun where
  timer := hx.timer
  sched := by
    rintro _ _ _ ⟨⟩
    exact ⟨toNat_ne_zero hx.groupHold, toNat_ne_zero hx.sampleHold⟩
  period := hx.period
  groupHold := hx.groupHold
  sampleHold := hx.sampleHold

theorem Domain.LimitsRun.withSched {x : Domain} (hx : x.LimitsRun) {k : Sched}
    (hk : ∀ b g l, k = .settle b g l → g ≠ some 0 ∧ l ≠ some 0) : ({ x with sched := k } : Domain).LimitsRun :=
  { hx with sched := hk }

theorem Domain.LimitsRun.drainEnded {x : Domain} (hx : x.LimitsRun) : x.drainEnded.LimitsRun := by
  unfold Domain.drainEnded
  split
  · exact hx.enterSettle _
  · exact hx
  · exact hx

/-- The limits of both domains run. -/
def State.LimitsRun (s : State) : Prop := ∀ d, (s.dom d).LimitsRun

theorem State.LimitsRun.congr (hs : s.LimitsRun) (hl : ∀ d, (t.dom d).limits = (s.dom d).limits) : t.LimitsRun :=
  fun d => (hs d).congr (hl d)

theorem State.LimitsRun.updDom (hs : s.LimitsRun) (d : Dom) {f : Domain → Domain} (hf : (f (s.dom d)).LimitsRun) :
    (s.updDom d f).LimitsRun := by
  refine (forall_dom d).2 ⟨?_, ?_⟩
  · rw [updDom_dom_same]; exact hf
  · rw [updDom_dom_otherDom]; exact hs _

theorem noteMerge_limits (d e : Dom) : ((s.noteMerge d).dom e).limits = (s.dom e).limits := by
  cases d <;> cases e <;> rfl

theorem State.LimitsRun.request (hs : s.LimitsRun) (d : Dom) (c : Cause) : (s.request d c).LimitsRun := by
  rcases request_cases s d c with e | ⟨-, ⟨-, -, -, e⟩ | ⟨-, e⟩ | ⟨b, -, e⟩ | ⟨b, g, l, hd, e⟩⟩ <;> rw [e]
  · exact hs
  · exact hs.updDom d ((hs d).enterSettle _)
  · exact hs.updDom d ((hs d).withSched (by rintro _ _ _ ⟨⟩))
  · exact State.LimitsRun.congr (hs.updDom d ((hs d).withSched (by rintro _ _ _ ⟨⟩))) (noteMerge_limits d)
  · refine State.LimitsRun.congr (hs.updDom d ((hs d).withSched ?_)) (noteMerge_limits d)
    rintro _ _ _ ⟨⟩
    exact (hs d).sched b g l hd

theorem noteWrite_limits (d e : Dom) (a : Addr) : ((s.noteWrite d a).dom e).limits = (s.dom e).limits := by
  unfold State.noteWrite; split <;> rfl

theorem appendEntry_limits (d e : Dom) (a : Addr) (be : Lanes) (data : Word) :
    ((s.appendEntry d a be data).dom e).limits = (s.dom e).limits := by
  rw [State.appendEntry, noteWrite_limits]
  cases d <;> cases e <;> rfl

theorem Domain.LimitsRun.withTimer {x : Domain} (hx : x.LimitsRun) {n : Option Nat} (hn : n ≠ some 0) :
    ({ x with timer := n } : Domain).LimitsRun :=
  { hx with timer := hn }

theorem Domain.LimitsRun.ite_timer_ne {x : Domain} (hx : x.LimitsRun) (p : Prop) [Decidable p] :
    (if p then none else x.timer) ≠ some 0 := by
  split
  · simp
  · exact hx.timer

theorem State.LimitsRun.instant (hs : s.LimitsRun) (ht : s.instant t) : t.LimitsRun := by
  rcases ht with h | h | ⟨d, h⟩ | h | h | h | h
  · obtain ⟨w, -, -, -, -, rfl⟩ := tryPlace_eq_some.1 h
    exact hs.congr fun d => appendEntry_limits (s := { s with held := none }) w.dom d ..
  · obtain ⟨e, r, -, -, -, -, rfl⟩ := tryDrainEnd_eq_some.1 h
    refine (forall_dom e.dom).2 ⟨?_, by rw [endDrain_dom_otherDom]; exact hs _⟩
    rw [endDrain_dom]
    have htimer : (s.dom e.dom).drainEnded.timer = (s.dom e.dom).timer := by
      unfold Domain.drainEnded; split <;> rfl
    rw [← htimer]
    exact ((hs e.dom).drainEnded.withTimer ((hs e.dom).drainEnded.ite_timer_ne _)).congr rfl
  · obtain ⟨b, g, l, -, -, -, rfl⟩ := tryCommit_eq_some.1 h
    refine (forall_dom d).2 ⟨?_, by rw [commit_dom_otherDom]; exact hs _⟩
    have hx := ((hs d).withSched (k := .idle) (by rintro _ _ _ ⟨⟩)).withTimer
      ((hs d).ite_timer_ne (b.final ∧ s.keptEntries d = []))
    exact hx.congr (congrArg Domain.limits (commit_uncounted d b) :)
  · obtain ⟨w, -, -, -, -, rfl⟩ := tryRelease_eq_some.1 h; exact hs.congr fun d => by cases d <;> rfl
  · obtain ⟨e, r, -, -, -, -, -, rfl⟩ := tryBegin_eq_some.1 h; exact hs.congr fun d => by cases d <;> rfl
  · obtain ⟨-, -, -, rfl⟩ := tryRestart_eq_some.1 h
    intro d
    rw [completeRestart_dom]
    exact ((hs d).withTimer (n := none) (by simp)).congr rfl
  · obtain ⟨w, m, -, -, -, -, -, rfl⟩ := tryGrant_eq_some.1 h; exact hs.congr fun d => by cases d <;> rfl

theorem State.LimitsRun.settleHolding (h : Hold) (hs : s.LimitsRun) : (s.settleHolding h).LimitsRun :=
  settleHolding_induct (fun _ _ hs ha => hs.instant (instant_of_advance ha)) hs

theorem State.LimitsRun.settle (hs : s.LimitsRun) : s.settle.LimitsRun := hs.settleHolding _

/-! ### What expires at the end of a tick -/

theorem endTimer_of_ne {d : Dom} (ht : (s.dom d).timer ≠ some 0) : s.endTimer d = s := if_neg ht

theorem endGroupHold_of_ne {d : Dom} (hs : ∀ b l, (s.dom d).sched ≠ .settle b (some 0) l) : s.endGroupHold d = s := by
  unfold State.endGroupHold
  split
  · next hk => exact absurd hk (hs _ _)
  · rfl

theorem endSampleHold_of_ne {d : Dom} (hs : ∀ b g, (s.dom d).sched ≠ .settle b g (some 0)) : s.endSampleHold d = s := by
  unfold State.endSampleHold
  split
  · next hk => exact absurd hk (hs _ _)
  · rfl

theorem Domain.LimitsRun.group_ne {x : Domain} (hx : x.LimitsRun) (b : Boundary) (l : Option Nat) :
    x.sched ≠ .settle b (some 0) l := fun hk => (hx.sched _ _ _ hk).1 rfl

theorem Domain.LimitsRun.sample_ne {x : Domain} (hx : x.LimitsRun) (b : Boundary) (g : Option Nat) :
    x.sched ≠ .settle b g (some 0) := fun hk => (hx.sched _ _ _ hk).2 rfl

/-- With nothing due and no limit of a domain ended, none of its limits expires. -/
theorem domExpiries_of_ne {d : Dom} (hq : s.settle = s) (ht : (s.dom d).timer ≠ some 0)
    (hg : ∀ b l, (s.dom d).sched ≠ .settle b (some 0) l) (hl : ∀ b g, (s.dom d).sched ≠ .settle b g (some 0)) :
    s.domExpiries d = s := by
  rw [State.domExpiries, endTimer_of_ne ht, hq, endGroupHold_of_ne hg, hq, endSampleHold_of_ne hl, hq]

theorem domExpiries_of_limitsRun {d : Dom} (hq : s.settle = s) (hd : (s.dom d).LimitsRun) : s.domExpiries d = s :=
  domExpiries_of_ne hq hd.timer hd.group_ne hd.sample_ne

/-- Where only limits of one domain have ended, the expiries of the end of a tick are that domain's. -/
theorem bothExpiries_of_one {d : Dom} {w : State} (hq : s.settle = s) (ho : (s.dom (otherDom d)).LimitsRun)
    (hd : s.domExpiries d = w) (hwq : w.settle = w) (hw : w.LimitsRun) : (s.domExpiries .d0).domExpiries .d1 = w := by
  have hother := domExpiries_of_limitsRun hq ho
  have hlast : ∀ e, w.domExpiries e = w := fun e => domExpiries_of_limitsRun hwq (hw e)
  cases d
  · rw [hd, hlast]
  · rw [show otherDom .d1 = .d0 from rfl] at hother
    rw [hother, hd]

end Sys2Proof.Machine
end

section
/-! SUPPORT. An idle step: a CLK period, and the end of a tick at which at most one count ends (R25, R26). -/

namespace Sys2Proof.Machine

variable {s t u : State} {h : Hold}

/-! ### The end of a tick in which at most one count ends (R25, R26) -/

theorem edge_idle (hg : s.arb.granted = none) : s.endAnswers.endCancel = { s with
    wp := { s.wp with answer := none }, cp := { s.cp with answer := none }, arb := { s.arb with cancel := false } } := by
  have ha : s.arb.endCancel s.memTimeout.toNat = { s.arb with cancel := false } := by
    unfold Arbiter.endCancel
    split
    · next k hk => cases hg.symm.trans hk
    · rfl
  exact congrArg (fun a => ({ s.endAnswers with arb := a } : State)) ha

theorem tickLimits_domain (x : Domain) : x.tickLimits = x.oneTickOff := by
  unfold Domain.tickLimits Domain.oneTickOff
  cases x.sched <;> rfl

theorem ticked_idle (hg : s.arb.granted = none) : s.endAnswers.endCancel.ticked = s.oneTickOff := by
  rw [edge_idle hg]
  unfold State.ticked State.tickLimits
  dsimp only
  rw [tickLimits_domain, tickLimits_domain]
  rfl

theorem State.NothingDue.oneTickOff (hn : s.NothingDue {}) (hg : s.arb.granted = none) : s.oneTickOff.NothingDue {} := by
  rw [← ticked_idle hg]
  exact hn.endAnswers.endCancel.ticked

theorem oneTickOff_param (p : Param) : s.oneTickOff.param p = s.param p := by
  cases p with
  | setting d q => cases d <;> rfl
  | _ => rfl

theorem State.ParamsInOrder.positive (hp : s.ParamsInOrder) (d : Dom) :
    (s.dom d).params.period ≠ 0 ∧ (s.dom d).params.groupHold ≠ 0 ∧ (s.dom d).params.sampleHold ≠ 0 := by
  have hne : ∀ q, q.inRange 0 = false → (s.dom d).params.value q ≠ 0 := fun q hq h0 => by
    have h := hp (.setting d q) rfl
    rw [show Param.inRange (.setting d q) (s.param (.setting d q)) = q.inRange ((s.dom d).params.value q) from rfl, h0, hq] at h
    cases h
  refine ⟨fun h0 => hne .period (by decide) ?_, fun h0 => hne .groupHold (by decide) ?_, fun h0 => hne .sampleHold (by decide) ?_⟩
  all_goals rw [DomParams.value, h0]; rfl

theorem State.noLimitEnds.limitsRun (hl : s.noLimitEnds) (hp : s.ParamsInOrder) : s.LimitsRun := by
  obtain ⟨htimer, hsched, -⟩ := hl
  intro d
  obtain ⟨h1, h2, h3⟩ := hp.positive d
  exact ⟨htimer d, hsched d, h1, h2, h3⟩

theorem endWriteHold_of_ne (hh : ∀ w, s.held = some w → w.left ≠ 0) : s.endWriteHold = s := by
  unfold State.endWriteHold
  split
  · next w hw => exact if_neg (hh w hw)
  · rfl

theorem State.LimitsRun.of_updDom {d : Dom} {f g : Domain → Domain} (hu : (u.updDom d f).LimitsRun)
    (hg : (f (u.dom d)).LimitsRun → (g (u.dom d)).LimitsRun) : (u.updDom d g).LimitsRun := by
  refine (forall_dom d).2 ⟨?_, ?_⟩
  · rw [updDom_dom_same]
    have hd := hu d
    rw [updDom_dom_same] at hd
    exact hg hd
  · rw [updDom_dom_otherDom, ← updDom_dom_otherDom (f := f)]
    exact hu _

theorem State.LimitsRun.otherDom_of_updDom {d : Dom} {f : Domain → Domain} (hu : (u.updDom d f).LimitsRun) :
    (u.dom (otherDom d)).LimitsRun := by
  rw [← updDom_dom_otherDom (f := f)]
  exact hu _

theorem domExpiries_of_timer {d : Dom} (ht : (u.dom d).timer = some 0) (hw : (u.expireTimer d).LimitsRun) :
    u.domExpiries d = (u.expireTimer d).settle := by
  have hx := hw.settle d
  rw [State.domExpiries, State.endTimer, if_pos ht, endGroupHold_of_ne hx.group_ne, settle_settle,
    endSampleHold_of_ne hx.sample_ne, settle_settle]

theorem domExpiries_of_groupHold {d : Dom} {b : Boundary} {l : Option Nat} (hq : u.settle = u)
    (ht : (u.dom d).timer ≠ some 0) (hs : (u.dom d).sched = .settle b (some 0) l)
    (hw : (u.updDom d Domain.expireGroupHold).LimitsRun) :
    u.domExpiries d = (u.updDom d Domain.expireGroupHold).settle := by
  have hx := hw.settle d
  have hend : u.endGroupHold d = u.updDom d Domain.expireGroupHold := by simp [State.endGroupHold, hs]
  rw [State.domExpiries, endTimer_of_ne ht, hq, hend, endSampleHold_of_ne hx.sample_ne, settle_settle]

theorem domExpiries_of_sampleHold {d : Dom} {b : Boundary} {g : Option Nat} (hq : u.settle = u)
    (ht : (u.dom d).timer ≠ some 0) (hs : (u.dom d).sched = .settle b g (some 0)) (hg : g ≠ some 0) :
    u.domExpiries d = (u.updDom d Domain.expireSampleHold).settle := by
  have hgroup : u.endGroupHold d = u := endGroupHold_of_ne fun b' l' hk => by
    rw [hs] at hk
    injection hk with _ hk
    exact hg hk
  have hend : u.endSampleHold d = u.updDom d Domain.expireSampleHold := by simp [State.endSampleHold, hs]
  rw [State.domExpiries, endTimer_of_ne ht, hq, hgroup, hq, hend]

/-- An idle step with nothing due before it, in the last CLK period of a tick. -/
theorem step_of_tickEnd (hp : s.pending = []) (hr : s.resetN = true) (hn : s.NothingDue {}) (hg : s.arb.granted = none)
    (hm : ∀ o, s.arb.mp = some o → o.left ≠ 0) (hc : s.time.tickLen.toNat ≤ s.time.clk + 1) :
    step s = .next (((s.oneTickOff.endWriteHold.settle).domExpiries .d0).domExpiries .d1) := by
  have hedge : s.edge = s.endAnswers.endCancel := edge_of_nothingDue hr hn (.inl hg) hm
  have htime : s.endAnswers.endCancel.time = s.time := rfl
  rw [step_idle hp, clkPeriod_eq hr, hedge, htime, if_neg (by omega), endTick_eq, ticked_idle hg]

/-- In another CLK period the time and the answers that end change, and nothing else. -/
theorem step_of_clk (hp : s.pending = []) (hr : s.resetN = true) (hn : s.NothingDue {}) (hg : s.arb.granted = none)
    (hm : ∀ o, s.arb.mp = some o → o.left ≠ 0) (hc : s.time.clk + 1 < s.time.tickLen.toNat) :
    step s = .next { s with
      time := { s.time with clk := s.time.clk + 1 }
      wp := { s.wp with answer := none }
      cp := { s.cp with answer := none }
      arb := { s.arb with cancel := false } } := by
  have hedge : s.edge = s.endAnswers.endCancel := edge_of_nothingDue hr hn (.inl hg) hm
  rw [step_idle hp, clkPeriod_eq hr, hedge, edge_idle hg]
  exact congrArg Host.Outcome.next (if_pos hc)

/-- The end of a tick at which limits of domain `d` alone end. -/
theorem step_of_one {d : Dom} {f : Domain → Domain} {v : State} (hp : s.pending = []) (hr : s.resetN = true)
    (hn : s.NothingDue {}) (hg : s.arb.granted = none) (hm : ∀ o, s.arb.mp = some o → o.left ≠ 0)
    (hc : s.time.tickLen.toNat ≤ s.time.clk + 1) (hl : (s.oneTickOff.updDom d f).noLimitEnds)
    (ho : (s.oneTickOff.dom (otherDom d)).LimitsRun) (hv : v.LimitsRun) (hd : s.oneTickOff.domExpiries d = v.settle) :
    step s = .next v.settle := by
  have hq : s.oneTickOff.settle = s.oneTickOff := settle_of_nothingDue hr (hn.oneTickOff hg)
  obtain ⟨-, -, hheld⟩ := hl
  rw [step_of_tickEnd hp hr hn hg hm hc, endWriteHold_of_ne (by simpa using hheld), hq,
    bothExpiries_of_one hq ho hd settle_settle hv.settle]

/-- Settles O2. -/
theorem idleStepPassesOneClkPeriod : Obligations.IdleStepPassesOneClkPeriod := by
  intro s hp
  refine ⟨fun hr => ?_, ⟨s.clkPeriod, step_idle hp, clkPeriod_time⟩, ?_⟩
  · rw [step_idle hp, State.clkPeriod, if_pos (by rw [hr]; rfl)]
  rintro u hr hn hg hm hpar rfl
  have hq : s.oneTickOff.settle = s.oneTickOff := settle_of_nothingDue hr (hn.oneTickOff hg)
  have hpar' : s.oneTickOff.ParamsInOrder := fun p hp => by rw [oneTickOff_param]; exact hpar p hp
  have hupd : ∀ {d : Dom} {f : Domain → Domain}, (f (s.oneTickOff.dom d)).params = (s.oneTickOff.dom d).params →
      (s.oneTickOff.updDom d f).noLimitEnds → (s.oneTickOff.updDom d f).LimitsRun := fun hf hl =>
    hl.limitsRun (hpar'.of_still (updDom_still _ hf))
  refine ⟨step_of_clk hp hr hn hg hm, fun hc => ⟨fun hl => ?_, fun d ht hl => ?_, fun d b l hs hl => ?_, fun d b g hs hl => ?_,
    fun h hh h0 hl => ?_⟩⟩
  · have hrun := hl.limitsRun hpar'
    obtain ⟨-, -, hheld⟩ := hl
    rw [step_of_tickEnd hp hr hn hg hm hc, endWriteHold_of_ne hheld, hq,
      bothExpiries_of_one (d := .d0) hq (hrun _) (domExpiries_of_limitsRun hq (hrun _)) hq hrun]
  · have hrun := hupd rfl hl
    have hexec : exec (.epochTimerExpiry d) s.oneTickOff = .next (s.oneTickOff.expireTimer d) := by
      have hset : s.oneTickOff.settleForRequest d .timer = s.oneTickOff :=
        settleHolding_of_nothingDue hr ((hn.oneTickOff hg).hold _)
      refine (congrArg Host.Outcome.next (if_pos hr)).trans ?_
      rw [hset]
    have hv : (s.oneTickOff.expireTimer d).LimitsRun := by
      unfold State.expireTimer
      rw [ht]
      refine State.LimitsRun.request (hrun.of_updDom fun hx => ?_) d .timer
      exact (hx.withTimer (toNat_ne_zero hx.period)).congr rfl
    exact ⟨_, hexec, step_of_one hp hr hn hg hm hc hl hrun.otherDom_of_updDom hv (domExpiries_of_timer ht hv)⟩
  · have hrun := hupd rfl hl
    have hexec : exec (.groupHoldExpiry d) s.oneTickOff = .next (s.oneTickOff.updDom d Domain.expireGroupHold) := by
      refine (congrArg Host.Outcome.next (if_pos ?_)).trans ?_
      · rw [hq]; exact hr
      · rw [hq]
    have hd := hrun d
    rw [updDom_dom_same] at hd
    have hv : (s.oneTickOff.updDom d Domain.expireGroupHold).LimitsRun := hrun.of_updDom fun hx => by
      unfold Domain.expireGroupHold
      rw [hs]
      exact (hx.withSched (k := .settle { b with groupExpired := true } none l) (by
        rintro _ _ _ ⟨⟩; exact hx.sched _ _ _ rfl)).congr rfl
    exact ⟨_, hexec, step_of_one hp hr hn hg hm hc hl hrun.otherDom_of_updDom hv
      (domExpiries_of_groupHold hq hd.timer hs hv)⟩
  · have hrun := hupd rfl hl
    have hexec : exec (.sampleHoldExpiry d) s.oneTickOff = .next (s.oneTickOff.updDom d Domain.expireSampleHold) := by
      refine (congrArg Host.Outcome.next (if_pos ?_)).trans ?_
      · rw [hq]; exact hr
      · rw [hq]
    have hd := hrun d
    rw [updDom_dom_same] at hd
    have hv : (s.oneTickOff.updDom d Domain.expireSampleHold).LimitsRun := hrun.of_updDom fun hx => by
      unfold Domain.expireSampleHold
      rw [hs]
      exact (hx.withSched (k := .settle { b with sampleExpired := true } g none) (by
        rintro _ _ _ ⟨⟩; exact hx.sched _ _ _ rfl)).congr rfl
    exact ⟨_, hexec, step_of_one hp hr hn hg hm hc hl hrun.otherDom_of_updDom hv
      (domExpiries_of_sampleHold hq hd.timer hs (hd.sched _ _ _ rfl).1)⟩
  · have hexec : exec .writeHoldExpiry s.oneTickOff = .next (s.oneTickOff.expireHeld h) := by
      refine (congrArg Host.Outcome.next (if_pos ?_)).trans ?_
      · rw [hq]; exact hr
      · rw [hq, State.expireWriteHold, hh]
    have hend : s.oneTickOff.endWriteHold = s.oneTickOff.expireHeld h := by
      unfold State.endWriteHold; rw [hh]; exact if_pos h0
    have hrun : (s.oneTickOff.expireHeld h).settle.LimitsRun := State.LimitsRun.settle <|
      (hl.limitsRun (hpar'.of_still rfl)).congr fun d => by cases d <;> (unfold State.expireHeld; cases h.dom <;> rfl)
    refine ⟨_, hexec, ?_⟩
    rw [step_of_tickEnd hp hr hn hg hm hc, hend,
      bothExpiries_of_one (d := .d0) settle_settle (hrun _) (domExpiries_of_limitsRun settle_settle (hrun _)) settle_settle hrun]

end Sys2Proof.Machine
end

section
/-! SUPPORT. A held write that expires at the end of a tick (R18, R26). -/

namespace Sys2Proof.Machine

variable {s t : State} {d : Dom} {n : Half}

/-! ### A held write that expires at the end of a tick (R18, R26) -/

/-- The device is RUNNING, the expired write is answered ERR, and its domain has counted `n` failures. -/
structure State.WriteExpired (s : State) (d : Dom) (n : Half) : Prop where
  running : s.device = .running
  held : s.held = none
  wp : s.wp = .answered true 0
  counter : s.counter d .writeFails = n

theorem State.WriteExpired.congr (hs : s.WriteExpired d n) (hv : t.device = s.device) (hh : t.held = s.held) (hw : t.wp = s.wp)
    (hc : t.counter d .writeFails = s.counter d .writeFails) : t.WriteExpired d n :=
  ⟨hv.trans hs.running, hh.trans hs.held, hw.trans hs.wp, hc.trans hs.counter⟩

theorem commit_writeFails (d e : Dom) (b : Boundary) : (s.commit d b).counter e .writeFails = s.counter e .writeFails := by
  refine (forall_dom d (p := fun e => (s.commit d b).counter e .writeFails = s.counter e .writeFails)).2 ⟨?_, ?_⟩ e
  · exact (commit_counted d b .writeFails).trans (satAdd_zero _)
  · exact counter_congr (by rw [commit_dom_otherDom]) _

theorem drainEnded_counters (x : Domain) : x.drainEnded.counters = x.counters := by
  unfold Domain.drainEnded; split <;> rfl

theorem endDrain_counter (e : Element) (rest : List Element) (d : Dom) (c : DomCounter) :
    (s.endDrain e rest).counter d c = s.counter d c := by
  refine counter_congr ?_ c
  refine (forall_dom e.dom (p := fun d => ((s.endDrain e rest).dom d).counters = (s.dom d).counters)).2 ⟨?_, ?_⟩ d
  · rw [endDrain_dom]
    exact drainEnded_counters _
  · rw [endDrain_dom_otherDom]

theorem State.WriteExpired.instant (hs : s.WriteExpired d n) (ht : s.instant t) : t.WriteExpired d n := by
  rcases ht with h | h | ⟨e, h⟩ | h | h | h | h
  · obtain ⟨w, hw, -⟩ := tryPlace_eq_some.1 h
    cases hs.held.symm.trans hw
  · obtain ⟨e, r, -, -, -, -, rfl⟩ := tryDrainEnd_eq_some.1 h
    have ho := endDrain_outside (s := s) e r
    exact hs.congr (by simpa using congrArg State.device ho) (by simpa using congrArg State.held ho)
      (by simpa using congrArg State.wp ho) (endDrain_counter e r d _)
  · obtain ⟨b, g, l, -, -, -, rfl⟩ := tryCommit_eq_some.1 h
    have ho := commit_outside (s := s) e b
    refine hs.congr (by simpa using congrArg State.device ho) ?_ (by simpa using congrArg State.wp ho) (commit_writeFails e d b)
    simpa [hs.held] using congrArg State.held ho
  · obtain ⟨w, hw, -⟩ := tryRelease_eq_some.1 h
    cases hs.held.symm.trans hw
  · obtain ⟨e, r, -, -, -, -, -, rfl⟩ := tryBegin_eq_some.1 h
    exact hs.congr rfl rfl rfl rfl
  · obtain ⟨-, hv, -⟩ := tryRestart_eq_some.1 h
    cases hs.running.symm.trans hv
  · obtain ⟨w, m, -, -, -, -, -, rfl⟩ := tryGrant_eq_some.1 h
    exact hs.congr rfl rfl rfl rfl

theorem State.WriteExpired.settle (hs : s.WriteExpired d n) : s.settle.WriteExpired d n :=
  settleHolding_induct (P := fun s => s.WriteExpired d n) (fun _ _ hs ha => hs.instant (instant_of_advance ha)) hs

theorem State.WriteExpired.updDom (hs : s.WriteExpired d n) (e : Dom) {f : Domain → Domain}
    (hf : ∀ x, (f x).counters = x.counters) : (s.updDom e f).WriteExpired d n :=
  hs.congr (by simp) (by simp) (by simp) (updDom_counter e hf d _)

theorem State.WriteExpired.noteMerge (hs : s.WriteExpired d n) (e : Dom) : (s.noteMerge e).WriteExpired d n := by
  refine hs.congr (by simp [State.noteMerge]) (by simp [State.noteMerge]) (by simp [State.noteMerge]) ?_
  rw [State.noteMerge, raise_counter, bump_counter, if_neg (by simp)]

theorem State.WriteExpired.request (hs : s.WriteExpired d n) (e : Dom) (c : Cause) : (s.request e c).WriteExpired d n := by
  rcases request_cases s e c with h | ⟨-, ⟨-, -, -, h⟩ | ⟨-, h⟩ | ⟨b, -, h⟩ | ⟨b, g, l, -, h⟩⟩ <;> rw [h]
  · exact hs
  · exact hs.updDom e fun _ => rfl
  · exact hs.updDom e fun _ => rfl
  · refine State.WriteExpired.noteMerge ?_ e
    exact hs.updDom e fun _ => rfl
  · refine State.WriteExpired.noteMerge ?_ e
    exact hs.updDom e fun _ => rfl

theorem State.WriteExpired.domExpiries (hs : s.WriteExpired d n) (e : Dom) : (s.domExpiries e).WriteExpired d n := by
  have htimer : ∀ {u : State}, u.WriteExpired d n → (u.endTimer e).WriteExpired d n := fun hu => by
    unfold State.endTimer State.expireTimer
    split
    · split
      · exact hu
      · refine State.WriteExpired.request ?_ e .timer
        exact hu.updDom e fun _ => rfl
    · exact hu
  have hgroup : ∀ {u : State}, u.WriteExpired d n → (u.endGroupHold e).WriteExpired d n := fun hu => by
    unfold State.endGroupHold
    split
    · exact hu.updDom e fun x => by unfold Domain.expireGroupHold; split <;> rfl
    · exact hu
  have hsample : ∀ {u : State}, u.WriteExpired d n → (u.endSampleHold e).WriteExpired d n := fun hu => by
    unfold State.endSampleHold
    split
    · exact hu.updDom e fun x => by unfold Domain.expireSampleHold; split <;> rfl
    · exact hu
  exact (hsample (hgroup (htimer hs).settle).settle).settle

theorem State.NothingDue.expireHeld (hn : s.NothingDue {}) (w : HeldWrite) : (s.expireHeld w).NothingDue {} := by
  have hnone : State.NothingDue { s with held := none } {} :=
    ⟨fun _ hv => (nomatch hv), hn.drainEnd, hn.commit, fun _ hv => (nomatch hv), hn.begin, hn.restart, hn.grant⟩
  unfold State.expireHeld
  generalize w.dom = d
  cases d <;> exact hnone.congr rfl hn.grant

theorem expireHeld_dom_timer (w : HeldWrite) (d : Dom) : ((s.expireHeld w).dom d).timer = (s.dom d).timer := by
  unfold State.expireHeld
  generalize w.dom = e
  cases d <;> cases e <;> rfl

theorem expireHeld_dom_sched (w : HeldWrite) (d : Dom) : ((s.expireHeld w).dom d).sched = (s.dom d).sched := by
  unfold State.expireHeld
  generalize w.dom = e
  cases d <;> cases e <;> rfl

theorem tickLimits_timer {x : Domain} (ht : x.timer = none) : x.tickLimits.timer = none := by
  simp [Domain.tickLimits, tickLeft, ht]

theorem tickLimits_sched {x : Domain} (hk : x.sched = .idle) : x.tickLimits.sched = .idle := by
  simp [Domain.tickLimits, hk]

/-- The end of a tick at which the hold limit ends: the write is answered first, and nothing after takes it back. -/
theorem endTick_of_expired {w : HeldWrite} (ho : s.StatesInOrder) (hr : s.resetN = true) (hn : s.NothingDue {})
    (hw : s.ticked.held = some w) (h0 : w.left = 0) :
    s.endTick.held = none ∧ s.endTick.wp = .answered true 0 ∧
      s.endTick.counter w.dom .writeFails = satAdd (s.counter w.dom .writeFails) 1 := by
  have hend : s.ticked.endWriteHold = s.ticked.expireHeld w := by
    unfold State.endWriteHold
    rw [hw]
    exact if_pos h0
  have hcount : (s.ticked.expireHeld w).counter w.dom .writeFails = satAdd (s.counter w.dom .writeFails) 1 :=
    (expireHeld_counted w .writeFails).trans
      (congrArg (satAdd · 1) (counter_congr (by cases w.dom <;> rfl) .writeFails))
  rw [endTick_eq, hend]
  cases hv : s.device with
  | running =>
    have hx : (s.ticked.expireHeld w).WriteExpired w.dom (satAdd (s.counter w.dom .writeFails) 1) :=
      ⟨by simpa [State.expireHeld, State.ticked, State.tickLimits] using hv, by simp [State.expireHeld], rfl, hcount⟩
    obtain ⟨-, hheld, hwp, hc⟩ := (hx.settle.domExpiries .d0).domExpiries .d1
    exact ⟨hheld, hwp, hc⟩
  | restarting =>
    obtain ⟨hagree, hstop⟩ := statesInOrder_iff.1 ho
    have hq : (s.ticked.expireHeld w).settle = s.ticked.expireHeld w :=
      settle_of_nothingDue ((congrArg Still.resetN (expireHeld_still w)).trans hr) (hn.ticked.expireHeld w)
    have htimer : ∀ d, ((s.ticked.expireHeld w).dom d).timer = none := fun d => by
      rw [expireHeld_dom_timer]
      have ht := hstop hv d
      cases d <;> exact tickLimits_timer ht
    have hsched : ∀ d, ((s.ticked.expireHeld w).dom d).sched = .idle := fun d => by
      rw [expireHeld_dom_sched]
      have hk := ((hagree.domains d).restarting hv).2
      cases d <;> exact tickLimits_sched hk
    have hnoop : ∀ d, (s.ticked.expireHeld w).domExpiries d = s.ticked.expireHeld w := fun d =>
      domExpiries_of_ne hq (by rw [htimer]; simp) (by rw [hsched]; simp) (by rw [hsched]; simp)
    rw [hq, hnoop, hnoop]
    exact ⟨by simp [State.expireHeld], rfl, hcount⟩

/-- Settles O3. -/
theorem heldWriteExpiresAtItsTickEnd : Obligations.HeldWriteExpiresAtItsTickEnd := by
  intro s w ho hmt hp hr hn hm hc hw hl
  have hedge : s.edge = s.endAnswers.endCancel := edge_of_nothingDue hr hn (.inr hmt) hm
  have hstep : step s = .next s.endAnswers.endCancel.endTick := by
    have htime : s.endAnswers.endCancel.time = s.time := rfl
    rw [step_idle hp, clkPeriod_eq hr, hedge, htime, if_neg (by omega)]
  have horder : s.endAnswers.endCancel.StatesInOrder := statesInOrder_iff.2
    ⟨(statesInOrder_iff.1 ho).1.congr rfl, (statesInOrder_iff.1 ho).2.congr rfl⟩
  have hheld : s.endAnswers.endCancel.ticked.held = some { w with left := w.left - 1 } :=
    (congrArg (Option.map fun h : HeldWrite => { h with left := h.left - 1 }) hw :)
  obtain ⟨h1, h2, h3⟩ := endTick_of_expired horder hr hn.endAnswers.endCancel hheld (Nat.sub_eq_zero_of_le hl)
  exact ⟨_, hstep, h1, h2, h3⟩

end Sys2Proof.Machine
end

section
/-! SUPPORT. STOP, DISCARD and RESTART (R21, R123, R126, R158). -/

namespace Sys2Proof.Machine

variable {s q : State}

/-! ### STOP and DISCARD of the domain their argument names (R123, R158) -/

/-- A STOP that names a domain is judged in the state in which its STOP request finds the part. -/
theorem exec_stop_of_argDom {arg : Byte} {d : Dom} (data : Word) (tag : Byte) (ha : argDom arg = some d)
    (hq : s.settleForRequest d .stop = q) :
    exec (.stop arg data tag) s = .next (q.linkCommand .stop arg data tag (stopDomain d)) := by
  rw [← hq, ← settleForFrame_of_argDom .stop ha, ← onDomain_of_argDom stopDomain ha]
  rfl

theorem stopDomain_shiftFrame_of_active {d : Dom} (h : (q.dom d).state = .active) (f : Frame) :
    stopDomain d (q.shiftFrame f) =
      (((q.updDom d fun x => { x with state := .flushing false }).request d .stop).shiftFrame f, .bare .ok) := by
  rw [stopDomain, shiftFrame_dom, if_pos h, updDom_shiftFrame, request_shiftFrame]

theorem stopDomain_shiftFrame_of_not_active {d : Dom} (h : (q.dom d).state ≠ .active) (f : Frame) :
    stopDomain d (q.shiftFrame f) = (q.shiftFrame f, .bare .state) := by
  rw [stopDomain, shiftFrame_dom, if_neg h]

/-- Settles O51. -/
theorem stopFlushesAnActiveDomain : Obligations.StopFlushesAnActiveDomain := by
  intro s q d arg tag data hq hl hr harg
  have hexec := exec_stop_of_argDom data tag (harg ▸ argDom_number d) hq
  refine ⟨fun hactive => ?_, fun hother => ?_⟩
  · rw [hexec, linkCommand_taken hl (.inl hr) (stopDomain_shiftFrame_of_active hactive)]
    rfl
  · rw [hexec, linkCommand_taken hl (.inl hr) (stopDomain_shiftFrame_of_not_active hother)]
    rfl

theorem exec_discard_of_argDom {arg : Byte} {d : Dom} (data : Word) (tag : Byte) (ha : argDom arg = some d)
    (hq : s.settle = q) :
    exec (.discard arg data tag) s = .next (q.linkCommand .discard arg data tag (discardDomain d)) := by
  rw [← hq, ← onDomain_of_argDom discardDomain ha]
  rfl

theorem discardable_iff {d : Dom} : s.discardable d = true ↔
    (s.dom d).state = .active ∨ ((s.dom d).state ≠ .off ∧ (s.dom d).sched ≠ .idle) := by
  unfold State.discardable
  cases (s.dom d).state <;> simp

theorem discardable_shiftFrame (d : Dom) (f : Frame) : (q.shiftFrame f).discardable d = q.discardable d := by
  unfold State.discardable
  rw [shiftFrame_dom]

theorem discardOpen_shiftFrame (d : Dom) (f : Frame) : (q.shiftFrame f).discardOpen d = (q.discardOpen d).shiftFrame f := by
  rw [State.discardOpen, freeOpenBank_shiftFrame, closeGroups_shiftFrame]
  rfl

theorem discardDomain_shiftFrame_of_discardable {d : Dom} (h : q.discardable d = true) (f : Frame) :
    discardDomain d (q.shiftFrame f) = ((q.discardOpen d).shiftFrame f, .bare .ok) := by
  rw [discardDomain, discardable_shiftFrame, if_pos h, discardOpen_shiftFrame]

theorem discardDomain_shiftFrame_of_not_discardable {d : Dom} (h : q.discardable d ≠ true) (f : Frame) :
    discardDomain d (q.shiftFrame f) = (q.shiftFrame f, .bare .state) := by
  rw [discardDomain, discardable_shiftFrame, if_neg h]

theorem discardOpen_domain (d : Dom) :
    { (s.discardOpen d).dom d with counters := (s.dom d).counters } = { s.dom d with openBank := [] } := by
  cases d <;> rfl

theorem discardOpen_counted (d : Dom) :
    s.counted (s.discardOpen d) d fun c => if c = .discarded then (s.dom d).openBank.length else 0 :=
  counted_congr (freeOpenBank_counted d) rfl (by rw [State.discardOpen, closeGroups_dom])

theorem discardOpen_groupsClosed (d : Dom) : s.groupsClosed (s.discardOpen d) d := by
  have hdom : ∀ g, (s.freeOpenBank d).groupDom g = s.groupDom g := fun g => by cases d <;> rfl
  have hstates : (s.freeOpenBank d).groupStates = s.groupStates := by cases d <;> rfl
  intro g
  have h := closeGroups_groupsClosed (s := s.freeOpenBank d) d g
  rwa [hdom, hstates] at h

/-- What DISCARD leaves. -/
theorem discardOpen_frame (d : Dom) : (s.discardOpen d).dom (otherDom d) = s.dom (otherDom d) ∧
    { s.discardOpen d with dom0 := s.dom0, dom1 := s.dom1, free := s.free, groupStates := s.groupStates } = s := by
  cases d <;> exact ⟨rfl, rfl⟩

theorem answering_dom (c arg : Byte) (data : Word) (tag : Byte) (r : Reply) (d : Dom) :
    (s.answering c arg data tag r).dom d = s.dom d := by cases d <;> rfl

/-- Settles O53: `freeOpenBank` empties the bank, `closeGroups` closes the groups. -/
theorem discardEmptiesTheOpenBank : Obligations.DiscardEmptiesTheOpenBank := by
  intro s q d arg tag data x hq hl hr harg hx
  subst hx
  have hexec := exec_discard_of_argDom data tag (harg ▸ argDom_number d) hq
  refine ⟨fun h => ?_, fun h => ?_⟩
  · have hdom := discardOpen_domain (s := q) d
    have hfree : (q.discardOpen d).free = q.free + (q.dom d).openBank.length := freeOpenBank_free d
    have hcount := discardOpen_counted (s := q) d
    have hclosed := discardOpen_groupsClosed (s := q) d
    obtain ⟨hother, hframe⟩ := discardOpen_frame (s := q) d
    have hlink : (q.discardOpen d).link = q.link := (congrArg State.link hframe :)
    rw [hexec, linkCommand_taken hl (.inl hr) (discardDomain_shiftFrame_of_discardable (discardable_iff.2 h))]
    generalize q.discardOpen d = u at *
    refine ⟨_, rfl, by rw [answering_dom]; exact hdom, hfree, counted_congr hcount rfl (by rw [answering_dom]), hclosed,
      congrArg (fun k : Link => k.answered _ _ _ _) hlink, by rw [answering_dom]; exact hother, ?_⟩
    exact (congrArg (fun v : State => { v with link := q.link }) hframe :)
  · rw [hexec, linkCommand_taken hl (.inl hr) (discardDomain_shiftFrame_of_not_discardable (mt discardable_iff.1 h))]
    rfl

/-! ### RESTART (R126) -/

theorem acceptRestart_counted (d : Dom) :
    s.counted s.acceptRestart d fun c => if c = .discarded then (s.dom d).openBank.length else 0 := by
  refine counted_congr (freeOpenBank_counted (s := s) d) rfl ?_
  cases d <;> rfl

theorem acceptRestart_groupStates (g : Fin 16) : s.acceptRestart.groupStates[g] = .closed := by
  have h0 := closeGroups_groupsClosed (s := s) .d0 g
  have h1 := closeGroups_groupsClosed (s := s.closeGroups .d0) .d1 g
  rw [h0, show (s.closeGroups .d0).groupDom g = s.groupDom g from rfl] at h1
  have hall : ((s.closeGroups .d0).closeGroups .d1).groupStates[g] = .closed := by
    rw [h1]
    cases s.groupDom g <;> rfl
  exact hall

theorem acceptRestart_domain (d : Dom) : { s.acceptRestart.dom d with counters := (s.dom d).counters } =
    { s.dom d with openBank := [], sched := .idle, timer := none } := by
  cases d <;> rfl

theorem acceptRestart_frame : { s.acceptRestart with
    device := s.device, dom0 := s.dom0, dom1 := s.dom1, free := s.free, held := s.held, groupStates := s.groupStates } = s :=
  rfl

theorem restartBody_shiftFrame (f : Frame) : restartBody (q.shiftFrame f) = (q.acceptRestart.shiftFrame f, .bare .ok) := by
  rw [restartBody, acceptRestart_shiftFrame]

/-- Settles O54. -/
theorem restartIsAccepted : Obligations.RestartIsAccepted := by
  intro s q arg tag data hq hl hr
  have hexec : exec (.restart arg data tag) s = .next (q.linkCommand .restart arg data tag restartBody) := by
    rw [← hq]; rfl
  have hv : q.acceptRestart.device = .restarting := rfl
  have hdom := acceptRestart_domain (s := q)
  have hcount := acceptRestart_counted (s := q)
  have hfree := acceptRestart_free (s := q)
  have hheld := acceptRestart_held (s := q)
  have hclosed := acceptRestart_groupStates (s := q)
  have hframe := acceptRestart_frame (s := q)
  have hlink : q.acceptRestart.link = q.link := (congrArg State.link hframe :)
  rw [hexec, linkCommand_taken hl (.inl hr) restartBody_shiftFrame]
  generalize q.acceptRestart = u at *
  refine ⟨_, rfl, hv, fun d => by rw [answering_dom]; exact hdom d, fun d => counted_congr (hcount d) rfl (by rw [answering_dom]),
    hfree, hheld, hclosed, congrArg (fun k : Link => k.answered _ _ _ _) hlink, ?_⟩
  exact (congrArg (fun v : State => { v with link := q.link }) hframe :)

end Sys2Proof.Machine
end

section
/-! SUPPORT. What is not taken: frames, accesses, limits and lines while RESET_N is low, and ports that are not free (R113, R149, R160, R170, R173). -/

namespace Sys2Proof.Machine

variable {s t q : State}

/-! ### Frames and the state in which they find the part (R149, R154) -/

theorem settleForFrame_eq (arg : Byte) (c : Cause) : ∃ h, s.settleForFrame arg c = s.settleHolding h := by
  unfold State.settleForFrame
  split
  · exact ⟨_, rfl⟩
  · exact ⟨_, rfl⟩

/-- `c` takes the instants that are due, but for some held back, and then judges a frame at its select rise. -/
def judgedAtRise (c : State → Host.Outcome State Fault Refusal) (s : State) : Prop :=
  ∃ h judge, c s = .next ((s.settleHolding h).takeFrame judge)

theorem judgedAtRise_settle {c : Command} {arg : Byte} {data : Word} {tag : Byte} {body : State → State × Reply} :
    judgedAtRise (fun s => .next (s.settle.linkCommand c arg data tag body)) s := ⟨_, _, rfl⟩

theorem judgedAtRise_settleForFrame {c : Command} {arg : Byte} {data : Word} {tag : Byte} {body : State → State × Reply}
    {k : Cause} : judgedAtRise (fun s => .next ((s.settleForFrame arg k).linkCommand c arg data tag body)) s := by
  obtain ⟨h, hs⟩ := settleForFrame_eq (s := s) arg k
  exact ⟨h, _, congrArg (fun u : State => Host.Outcome.next (u.linkCommand c arg data tag body)) hs⟩

theorem judgedAtRise_executeFrame (code arg : Byte) (data : Word) (tag : Byte) :
    judgedAtRise (executeFrame code arg data tag) s := by
  unfold judgedAtRise executeFrame
  cases Command.ofCode? code with
  | none => exact ⟨_, _, rfl⟩
  | some c =>
    cases c
    case stop => exact judgedAtRise_settleForFrame
    case close => exact judgedAtRise_settleForFrame
    all_goals exact judgedAtRise_settle

theorem judgedAtRise_frameCheckFail (f : Frame) : judgedAtRise (execFrameCheckFail f) s := by
  unfold judgedAtRise execFrameCheckFail
  split
  · exact judgedAtRise_executeFrame ..
  · exact ⟨_, _, rfl⟩

theorem judgedAtRise_exec {c : Instr} (hc : frameRow c = true) : judgedAtRise (exec c) s := by
  cases c
  case tornFrame bits =>
    show judgedAtRise (execTornFrame bits) s
    unfold judgedAtRise execTornFrame
    split
    · exact judgedAtRise_frameCheckFail _
    · exact ⟨_, _, rfl⟩
  case frameCheckFail f => exact judgedAtRise_frameCheckFail f
  case unknownCommand => exact judgedAtRise_executeFrame ..
  case stop => exact judgedAtRise_settleForFrame
  case close => exact judgedAtRise_settleForFrame
  case nop | readParam | writeParam | writeTimerRun | writeEventEnable | readState | readEvent | ackEvent | readCounter |
    clearCounters | readHistory | readResetRecord | start | discard | restart => exact judgedAtRise_settle
  all_goals cases hc

/-- While RESET_N is low a frame does nothing (R160). -/
theorem exec_frame_low {c : Instr} (hc : frameRow c = true) (hr : s.resetN = false) : exec c s = .next s := by
  obtain ⟨h, judge, he⟩ := judgedAtRise_exec (s := s) hc
  rw [he, settleHolding_low hr]
  simp [State.takeFrame, hr]

/-- With SL_SEL_N low since the release of RESET_N, the rise judges no frame (R149). -/
theorem exec_frame_unselected {c : Instr} (hc : frameRow c = true) (hr : s.resetN = true) (hl : s.link.selN = false) :
    ∃ h : Hold, exec c s = .next { s.settleHolding h with
      link := { s.link with state := .deselected, selN := true, slDo := none } } := by
  obtain ⟨h, judge, he⟩ := judgedAtRise_exec (s := s) hc
  refine ⟨h, ?_⟩
  have hlink : (s.settleHolding h).link = s.link := congrArg Still.link settleHolding_still
  have hreset : (s.settleHolding h).resetN = true := settleHolding_resetN.trans hr
  rw [he]
  generalize s.settleHolding h = u at hlink hreset
  rw [← hlink] at hl ⊢
  simp [State.takeFrame, hreset, hl, Link.selectRise]

/-! ### RESET_N low (R113, R130, R173) -/

theorem settle_low (hr : s.resetN = false) : s.settle = s := settleHolding_low hr

/-- An instant that is not due leaves the state. -/
theorem next_of_eq_none {o : Option State} (ho : o = none) :
    (.next (o.getD s) : Host.Outcome State Fault Refusal) = .next s := by rw [ho]; rfl

theorem wpAccepts_low (hr : s.resetN = false) : s.wpAccepts = false := by simp [State.wpAccepts, hr]
theorem cpAccepts_low (hr : s.resetN = false) : s.cpAccepts = false := by simp [State.cpAccepts, hr]

/-! A port that takes no access finds the part settled, and does nothing. -/

theorem exec_writerPortWrite_refused (h : s.wpAccepts = false) (a : Addr) (be : Lanes) (data : Word) :
    exec (.writerPortWrite a be data) s = .next s.settle := congrArg Host.Outcome.next (if_pos (by rw [h]; rfl))

theorem exec_writerPortRead_refused (h : s.wpAccepts = false) (a : Addr) (lines : ReadLines) :
    exec (.writerPortRead a lines) s = .next s.settle := congrArg Host.Outcome.next (if_pos (by rw [h]; rfl))

theorem exec_consumerPortWrite_refused (h : s.cpAccepts = false) (a : Addr) (be : Lanes) (data : Word) :
    exec (.consumerPortWrite a be data) s = .next s.settle := congrArg Host.Outcome.next (if_pos (by rw [h]; rfl))

theorem exec_consumerPortRead_refused (h : s.cpAccepts = false) (a : Addr) (lines : ReadLines) :
    exec (.consumerPortRead a lines) s = .next s.settle := congrArg Host.Outcome.next (if_pos (by rw [h]; rfl))

/-- R113, R130, R160, R173: while RESET_N is low a row does nothing, but for its release and a power-up. -/
theorem exec_low {c : Instr} (hr : s.resetN = false) (hc : ignoredInReset c = true) : exec c s = .next s := by
  have hlow : ∀ {p : Prop}, s.resetN = true → p := fun h => absurd (hr.symm.trans h) (by decide)
  have hset : s.settle = s := settle_low hr
  have hreq : ∀ d c, s.settleForRequest d c = s := fun _ _ => settleHolding_low hr
  by_cases hf : frameRow c = true
  · exact exec_frame_low hf hr
  cases c
  -- the upstream ports
  case writerPortWrite a be data => rw [exec_writerPortWrite_refused (wpAccepts_low hr), hset]
  case writerPortRead a lines => rw [exec_writerPortRead_refused (wpAccepts_low hr), hset]
  case consumerPortWrite a be data => rw [exec_consumerPortWrite_refused (cpAccepts_low hr), hset]
  case consumerPortRead a lines => rw [exec_consumerPortRead_refused (cpAccepts_low hr), hset]
  -- the part's own instants
  case memoryGrant => exact next_of_eq_none (tryGrant_eq_none.2 hlow)
  case commitPoint d => exact next_of_eq_none (tryCommit_eq_none.2 hlow)
  case placeHeldWrite => exact next_of_eq_none (tryPlace_eq_none.2 hlow)
  case heldWriteRelease => exact next_of_eq_none (tryRelease_eq_none.2 hlow)
  case drainBankBegin => exact next_of_eq_none (tryBegin_eq_none.2 hlow)
  case drainEnd => exact next_of_eq_none (tryDrainEnd_eq_none.2 hlow)
  case restartCompletion => exact next_of_eq_none (tryRestart_eq_none.2 hlow)
  -- memory, the limits and the lines
  case memoryAnswer err rdata => simp [exec, execMemoryAnswer, hset, hr]
  case memTimeoutExpiry => simp [exec, execMemTimeoutExpiry, hset, hr]
  case epochTimerExpiry d => simp [exec, execEpochTimerExpiry, hr]
  case epochInRisingEdge d => simp [exec, execEpochInRisingEdge, hreq, hr]
  case epochInFallingLevel d => simp [exec, execEpochInFallingLevel, hset, hr]
  case sampleNLevelChange d level => simp [exec, execSampleNLevelChange, hset, hr]
  case groupHoldExpiry d => simp [exec, execGroupHoldExpiry, hset, hr]
  case sampleHoldExpiry d => simp [exec, execSampleHoldExpiry, hset, hr]
  case writeHoldExpiry => simp [exec, execWriteHoldExpiry, hset, hr]
  case resetNAssertion => simp [exec, execResetNAssertion, hset, hr]
  case resetNRelease | powerUp => cases hc
  all_goals exact absurd rfl hf

/-- Settles O35. -/
theorem inputsThatAreNotTakenDoNothing : Obligations.InputsThatAreNotTakenDoNothing := by
  refine ⟨fun s c => exec_low, fun s hr => if_neg (by rw [hr]; decide), fun s a be data => ⟨fun hb => ?_, fun hb => ?_⟩,
    fun s c hr hl hc => exec_frame_unselected hc hr hl⟩
  · have h : s.wpAccepts = false := by simp [State.wpAccepts, hb]
    exact ⟨exec_writerPortWrite_refused h a be data, exec_writerPortRead_refused h a ⟨be, data⟩⟩
  · have h : s.cpAccepts = false := by simp [State.cpAccepts, hb]
    exact ⟨exec_consumerPortWrite_refused h a be data, exec_consumerPortRead_refused h a ⟨be, data⟩⟩

end Sys2Proof.Machine
end

section
/-! SUPPORT. A frame that fails its check, the reading commands, and the commands the link refuses (R152, R154, R155). -/

namespace Sys2Proof.Machine

variable {s q u : State}

/-! ### A complete frame that fails its check (R152) -/

theorem exec_frameCheckFail_of_not_sound {f : Frame} (hq : s.settle = q) (hl : q.listens) (hf : frameSound f = false) :
    exec (.frameCheckFail f) s = .next (q.failCheck f) := by
  have hexec : exec (.frameCheckFail f) s = .next (s.settle.takeFrame fun u => u.failCheck f) :=
    if_neg (by rw [hf]; decide)
  rw [hexec, hq, takeFrame_listens hl]

theorem failCheck_devCounted (f : Frame) : s.devCounted (s.failCheck f) fun c => if c = .checkFails then 1 else 0 :=
  devCounted_congr (bumpDev_counted (s := s.shiftFrame f) .checkFails) (shiftFrame_devCounters _ f) rfl

theorem failCheck_occurred (f : Frame) : s.occurred (s.failCheck f) fun e => decide (e = .linkError) :=
  occurred_congr (raise_occurred (s := (s.shiftFrame f).bumpDev .checkFails) .linkError)
    ((bumpDev_events _ _).trans (shiftFrame_events _ f)) rfl

theorem failCheck_link (f : Frame) : (s.failCheck f).link =
    s.link.answered f (frameByte f 0) (frameByte f 6) { result := .checkFail, flags := 0, data := 0 } := by
  have hlink : (s.failCheck f).link = { (s.shiftFrame f).link with
      response := { result := .checkFail, flags := 0, command := frameByte f 0, data := 0, tag := frameByte f 6 } } := rfl
  rw [hlink, State.shiftFrame, receive_frame]
  rfl

theorem failCheck_frame (f : Frame) :
    { s.failCheck f with devCounters := s.devCounters, events := s.events, link := s.link } = s := by
  have h : ∀ u : State, {
      ((u.bumpDev .checkFails).raise .linkError).respond (frameByte f 0) (frameByte f 6) (.bare .checkFail) with
      devCounters := s.devCounters, events := s.events, link := s.link } =
      { u with devCounters := s.devCounters, events := s.events, link := s.link } := fun u => rfl
  exact (h _).trans rfl

/-- Settles O37. -/
theorem failedCheckIsAnsweredCheckFail : Obligations.FailedCheckIsAnsweredCheckFail := by
  intro s q f hq hl hf
  exact ⟨q.failCheck f, exec_frameCheckFail_of_not_sound hq hl (decide_eq_false hf), failCheck_devCounted f,
    failCheck_occurred f, failCheck_link f, failCheck_frame f⟩

/-! ### NOP and the reading commands (section 10.4) -/

theorem groupState_shiftFrame (f : Frame) (i : Fin 16) : (q.shiftFrame f).groupState i = q.groupState i := by
  simp [State.groupState, State.inForce, State.groupWindow]

theorem deviceWord0_shiftFrame (f : Frame) : (q.shiftFrame f).deviceWord0 = q.deviceWord0 := by
  simp [State.deviceWord0]

theorem deviceWord1_shiftFrame (f : Frame) : (q.shiftFrame f).deviceWord1 = q.deviceWord1 := by
  simp [State.deviceWord1, groupState_shiftFrame]

theorem stateReply_shiftFrame (arg : Byte) (f : Frame) : (q.shiftFrame f).stateReply arg = q.stateReply arg := by
  simp only [State.stateReply, shiftFrame_dom0, shiftFrame_dom1, deviceWord0_shiftFrame, deviceWord1_shiftFrame]

theorem counterReply_shiftFrame (arg : Byte) (f : Frame) : (q.shiftFrame f).counterReply arg = q.counterReply arg := by
  simp only [State.counterReply, State.counterAt, shiftFrame_dom0, shiftFrame_dom1, shiftFrame_devCounters]

theorem historyReply_shiftFrame (arg : Byte) (f : Frame) : (q.shiftFrame f).historyReply arg = q.historyReply arg := by
  simp only [State.historyReply, shiftFrame_history]

theorem resetRecordReply_shiftFrame (arg : Byte) (f : Frame) :
    (q.shiftFrame f).resetRecordReply arg = q.resetRecordReply arg := by
  simp only [State.resetRecordReply, State.recordWord, shiftFrame_dom0, shiftFrame_dom1, shiftFrame_recValid,
    shiftFrame_recHeldLost]

/-- Settles O40. -/
theorem readingCommandsChangeOnlyTheLink : Obligations.ReadingCommandsChangeOnlyTheLink := by
  intro s q arg tag data hq hl
  refine ⟨?_, exec_readParam arg data tag hq hl, ?_, ?_, ?_, ?_⟩ <;> subst hq
  · exact congrArg Host.Outcome.next (linkCommand_reading hl rfl fun _ => rfl)
  · exact congrArg Host.Outcome.next (linkCommand_reading hl rfl (stateReply_shiftFrame arg))
  · exact congrArg Host.Outcome.next (linkCommand_reading hl rfl (counterReply_shiftFrame arg))
  · exact congrArg Host.Outcome.next (linkCommand_reading hl rfl (historyReply_shiftFrame arg))
  · exact congrArg Host.Outcome.next (linkCommand_reading hl rfl (resetRecordReply_shiftFrame arg))

/-! ### The refused commands (R154) -/

theorem argDom_of_le {arg : Byte} (h : 2 ≤ arg.toNat) : argDom arg = none := by
  unfold argDom
  obtain ⟨n, hn⟩ := Nat.exists_eq_add_of_le' h
  rw [hn]
  rfl

theorem ofCode?_of_ne {code : Byte} (h : ∀ c : Command, c.code ≠ code) : Command.ofCode? code = none := by
  refine List.find?_eq_none.2 fun c _ => ?_
  simpa using h c

/-- A sound frame whose byte 0 is no command code is answered UNKNOWN_COMMAND (R154, test 1). -/
theorem exec_unknownCommand_of_ne {code : Byte} (arg : Byte) (data : Word) (tag : Byte) (hq : s.settle = q) (hl : q.listens)
    (h : ∀ c : Command, c.code ≠ code) :
    exec (.unknownCommand code arg data tag) s = .next (q.answering code arg data tag (.bare .unknown)) := by
  have hexec : exec (.unknownCommand code arg data tag) s = .next (s.settle.unknownFrame code arg data tag) := by
    show executeFrame code arg data tag s = _
    unfold executeFrame
    rw [ofCode?_of_ne h]
  rw [hexec, hq, State.unknownFrame, takeFrame_listens hl, shiftFrame_respond]

theorem onDomain_of_argDom_none {arg : Byte} (body : Dom → State → State × Reply) (ha : argDom arg = none) (f : Frame) :
    onDomain arg body (q.shiftFrame f) = (q.shiftFrame f, .bare .badArgument) := by
  simp [onDomain, ha]

/-- A command on a domain whose argument names none changes nothing but the link. -/
theorem linkCommand_onDomain_of_le {c : Command} {arg : Byte} {data : Word} {tag : Byte} {body : Dom → State → State × Reply}
    (hl : q.listens) (hr : q.device = .running) (ha : 2 ≤ arg.toNat) :
    q.linkCommand c arg data tag (onDomain arg body) = q.answering c.code arg data tag (.bare .badArgument) :=
  linkCommand_taken hl (.inl hr) (onDomain_of_argDom_none body (argDom_of_le ha))

theorem settleForFrame_of_le {arg : Byte} (c : Cause) (ha : 2 ≤ arg.toNat) : s.settleForFrame arg c = s.settle := by
  simp [State.settleForFrame, argDom_of_le ha]

theorem settleHolding_listens {g h : Hold} (hl : (s.settleHolding g).listens) : (s.settleHolding h).listens := by
  have hreset : ∀ k, (s.settleHolding k).resetN = s.resetN := fun k => settleHolding_resetN
  have hlink : ∀ k, (s.settleHolding k).link = s.link := fun k => congrArg Still.link settleHolding_still
  unfold State.listens at *
  rwa [hreset, hlink] at *

theorem settleForFrame_listens {arg : Byte} {c : Cause} (hl : s.settle.listens) : (s.settleForFrame arg c).listens := by
  obtain ⟨h, hs⟩ := settleForFrame_eq (s := s) arg c
  rw [hs]
  exact settleHolding_listens hl

theorem clearCountersBody_of_le {arg : Byte} (h : 4 ≤ arg.toNat) : clearCountersBody arg u = (u, .bare .badArgument) := by
  unfold clearCountersBody
  obtain ⟨n, hn⟩ := Nat.exists_eq_add_of_le' h
  rw [hn]
  rfl

/-- Settles O39. -/
theorem refusedCommandsChangeOnlyTheLink : Obligations.RefusedCommandsChangeOnlyTheLink := by
  rintro s q arg tag data busy bad hq hl rfl rfl
  refine ⟨fun code h => exec_unknownCommand_of_ne arg data tag hq hl h, fun hv => ?restarting, fun p hp hv => ?stop,
    fun p hp hv => ?close, fun hv ha => ?domain, fun hv ha => ?counters⟩
  case restarting =>
    subst hq
    exact ⟨congrArg Host.Outcome.next (linkCommand_gated hl hv rfl), congrArg Host.Outcome.next (linkCommand_gated hl hv rfl),
      fun d => congrArg Host.Outcome.next (linkCommand_gated hl hv rfl), congrArg Host.Outcome.next (linkCommand_gated hl hv rfl),
      congrArg Host.Outcome.next (linkCommand_gated hl hv rfl), congrArg Host.Outcome.next (linkCommand_gated hl hv rfl),
      congrArg Host.Outcome.next (linkCommand_gated hl hv rfl), congrArg Host.Outcome.next (linkCommand_gated hl hv rfl)⟩
  case stop =>
    subst hq hp
    exact congrArg Host.Outcome.next (linkCommand_gated (settleForFrame_listens hl) hv rfl)
  case close =>
    subst hq hp
    exact congrArg Host.Outcome.next (linkCommand_gated (settleForFrame_listens hl) hv rfl)
  case domain =>
    subst hq
    have hset : ∀ c, s.settleForFrame arg c = s.settle := fun c => settleForFrame_of_le c ha
    refine ⟨congrArg Host.Outcome.next (linkCommand_onDomain_of_le hl hv ha), ?_, ?_,
      congrArg Host.Outcome.next (linkCommand_onDomain_of_le hl hv ha)⟩
    · refine congrArg Host.Outcome.next ?_
      rw [hset]
      exact linkCommand_onDomain_of_le hl hv ha
    · refine congrArg Host.Outcome.next ?_
      rw [hset]
      exact linkCommand_onDomain_of_le hl hv ha
  case counters =>
    subst hq
    exact congrArg Host.Outcome.next (linkCommand_taken hl (.inl hv) fun f => clearCountersBody_of_le ha)

end Sys2Proof.Machine
end

section
/-! SUPPORT. WRITE_PARAM: the judgement, the locks and the ranges (R156, R165, R166). -/

namespace Sys2Proof.Machine

variable {s q u : State} {p : Param} {v : Word}

/-! ### Writes of parameters and the link (R156) -/

theorem governors_shiftFrame (f : Frame) (p : Param) (v : Word) : (q.shiftFrame f).governors p v = q.governors p v := by
  cases p with
  | setting d r => cases r <;> rfl
  | winBase w => simp only [State.governors, shiftFrame_windows]
  | winCtrl w => simp only [State.governors, shiftFrame_windows]
  | grp g => simp only [State.governors, State.groupDom, State.groupWindow, shiftFrame_windows, shiftFrame_groups]
  | _ => rfl

theorem locks_shiftFrame (f : Frame) (p : Param) (v : Word) : (q.shiftFrame f).locks p v = q.locks p v := by
  have huse : (q.shiftFrame f).inUse = q.inUse := funext fun d => by simp only [State.inUse, shiftFrame_dom]
  rw [State.locks, governors_shiftFrame, huse]
  rfl

theorem writeResult_shiftFrame (f : Frame) (p : Param) (v : Word) :
    (q.shiftFrame f).writeResult p v = q.writeResult p v := by
  rw [State.writeResult, locks_shiftFrame]
  rfl

theorem store_shiftFrame (f : Frame) (p : Param) (v : Word) : (q.shiftFrame f).store p v = (q.store p v).shiftFrame f := by
  cases p with
  | setting d r => exact updDom_shiftFrame f d fun x => x.writeSetting r v
  | _ => rfl

theorem writeParam_eq (p : Param) (v : Word) : q.writeParam p v = if q.writeResult p v = .ok then q.store p v else q := by
  unfold State.writeParam
  split
  · next h => rw [if_pos h]
  · next h => rw [if_neg h]

theorem writeParam_shiftFrame (f : Frame) (p : Param) (v : Word) :
    (q.shiftFrame f).writeParam p v = (q.writeParam p v).shiftFrame f := by
  rw [writeParam_eq, writeParam_eq, writeResult_shiftFrame, store_shiftFrame]
  split <;> rfl

/-- WRITE_PARAM of an assigned number, on a RUNNING device. -/
theorem exec_writeParam (p : Param) (v : Word) (tag : Byte) (hq : s.settle = q) (hl : q.listens) (hr : q.device = .running) :
    exec (.writeParam p.num v tag) s = .next ((q.writeParam p v).answering 0x21 p.num v tag
      { result := q.writeResult p v, flags := 0, data := (q.writeParam p v).param p }) := by
  subst hq
  refine congrArg Host.Outcome.next (linkCommand_taken hl (.inl hr) fun f => ?_)
  simp only [writeParamBody, ofNum_num, writeParam_shiftFrame, writeResult_shiftFrame, param_shiftFrame]

/-- WRITE_PARAM of a number that is not assigned. -/
theorem exec_writeParam_of_ne {n : Byte} (v : Word) (tag : Byte) (hq : s.settle = q) (hl : q.listens)
    (hr : q.device = .running) (hn : ∀ k : Param, k.num ≠ n) : exec (.writeParam n v tag) s =
      .next (q.answering 0x21 n v tag { result := .badArgument, flags := 0, data := 0 }) := by
  have hnone : Param.ofNum? n = none := (Option.eq_none_or_eq_some _).resolve_right fun ⟨k, hk⟩ => hn k (num_of_ofNum hk)
  subst hq
  refine congrArg Host.Outcome.next (linkCommand_taken hl (.inl hr) fun f => ?_)
  simp only [writeParamBody, hnone, Reply.bare]

/-! ### The locks and the ranges (R165, R166, Table 11.1) -/

theorem inUse_iff {d : Dom} : q.inUse d = true ↔ (q.dom d).state ≠ .off := by
  simp [State.inUse]

theorem locks_iff : q.locks p v = true ↔ ∃ d ∈ q.governors p v, (q.dom d).state ≠ .off := by
  simp only [State.locks, List.any_eq_true, inUse_iff]

theorem exists_window_iff {P : Fin 8 → Prop} : (∃ w : Fin 8, w.val = (v.extractLsb' 4 3).toNat ∧ P w) ↔ P (grpWindow v) := by
  have hlt : (v.extractLsb' 4 3).toNat < 8 := (v.extractLsb' 4 3).isLt
  have hval : (grpWindow v).val = (v.extractLsb' 4 3).toNat := Nat.mod_eq_of_lt hlt
  constructor
  · rintro ⟨w, hw, hp⟩
    rwa [show grpWindow v = w from Fin.ext (hval.trans hw.symm)]
  · exact fun hp => ⟨_, hval, hp⟩

/-- No bit of a word stands outside a mask. -/
theorem masked_iff {m : Word} : v &&& ~~~m = 0 ↔ ∀ i : Fin 32, v.getLsbD i = true → m.getLsbD i = true := by
  constructor
  · intro h i hv
    by_contra hm
    cases hv.symm.trans (getLsbD_of_masked h i.isLt (by simpa using hm))
  · intro h
    refine BitVec.eq_of_getLsbD_eq fun i hi => ?_
    have hm : v.getLsbD i = true → m.getLsbD i = true := h ⟨i, hi⟩
    cases hv : v.getLsbD i
    · simp [hv]
    · simp [hm hv]

theorem ctrlMask_iff : ∀ i : Fin 32, (0x1F3 : Word).getLsbD i = true ↔ i = 0 ∨ i = 1 ∨ (4 ≤ i ∧ i ≤ 8) := by decide

theorem grpMask_iff : ∀ i : Fin 32,
    (0x1FFFFF71 : Word).getLsbD i = true ↔ i = 0 ∨ (4 ≤ i ∧ i ≤ 6) ∨ (8 ≤ i ∧ i ≤ 28) := by decide

theorem winCtrl_inRange_iff (w : Fin 8) : (Param.winCtrl w).inRange v = true ↔
    2 ≤ (v.extractLsb' 4 5).toNat ∧ (v.extractLsb' 4 5).toNat ≤ 16 ∧
      ∀ i : Fin 32, v.getLsbD i = true → i = 0 ∨ i = 1 ∨ (4 ≤ i ∧ i ≤ 8) := by
  have hsize : ((ctrlSize v).setWidth 32).toNat = (v.extractLsb' 4 5).toNat :=
    BitVec.toNat_setWidth_of_le (by decide)
  rw [Param.inRange, Bool.and_eq_true, decide_eq_true_eq, inSpan_iff, hsize, masked_iff]
  simp only [ctrlMask_iff]
  tauto

theorem grp_inRange_iff (g : Fin 16) : (Param.grp g).inRange v = true ↔
    2 ≤ (v.extractLsb' 24 5).toNat ∧ (v.extractLsb' 24 5).toNat ≤ 16 ∧
      ∀ i : Fin 32, v.getLsbD i = true → i = 0 ∨ (4 ≤ i ∧ i ≤ 6) ∨ (8 ≤ i ∧ i ≤ 28) := by
  have hsize : ((grpLength v).setWidth 32).toNat = (v.extractLsb' 24 5).toNat :=
    BitVec.toNat_setWidth_of_le (by decide)
  rw [Param.inRange, Bool.and_eq_true, decide_eq_true_eq, inSpan_iff, hsize, masked_iff]
  simp only [grpMask_iff]
  tauto

theorem ctrlDom_eq : ctrlDom v = if v.getLsbD 1 then .d1 else .d0 := by
  unfold ctrlDom domOfBit
  cases v.getLsbD 1 <;> rfl

theorem setting_locks_iff (d : Dom) (r : Setting) : q.locks (.setting d r) v = true ↔
    (r = .quota ∨ r = .policy) ∧ (q.dom d).state ≠ .off := by
  rw [locks_iff]
  cases r <;> simp [State.governors]

/-- Which domains lock which parameter (R166). -/
theorem locks_table (q : State) (v : Word) :
    (∀ d, (q.locks (.setting d .quota) v = true ↔ (q.dom d).state ≠ .off) ∧
      (q.locks (.setting d .policy) v = true ↔ (q.dom d).state ≠ .off)) ∧
    (∀ w, (q.locks (.winBase w) v = true ↔ (q.dom q.windows[w].dom).state ≠ .off) ∧
      (q.locks (.winCtrl w) v = true ↔
        (q.dom q.windows[w].dom).state ≠ .off ∨ (q.dom (if v.getLsbD 1 then .d1 else .d0)).state ≠ .off)) ∧
    (∀ g, q.locks (.grp g) v = true ↔ (q.dom (q.groupDom g)).state ≠ .off ∨
      ∃ w : Fin 8, w.val = (v.extractLsb' 4 3).toNat ∧ (q.dom q.windows[w].dom).state ≠ .off) := by
  refine ⟨fun d => ⟨?_, ?_⟩, fun w => ⟨?_, ?_⟩, fun g => ?_⟩
  · simp [setting_locks_iff]
  · simp [setting_locks_iff]
  · simp [locks_iff, State.governors]
  · simp [locks_iff, State.governors, ctrlDom_eq]
  · rw [exists_window_iff]
    simp [locks_iff, State.governors]

/-- The ranges of Table 11.1. -/
theorem inRange_table (v : Word) :
    (Param.inRange .tickDiv v = true ↔ 10 ≤ v.toNat ∧ v.toNat ≤ 1000) ∧
    (Param.inRange .memTimeout v = true ↔ 1 ≤ v.toNat ∧ v.toNat ≤ 255) ∧
    (Param.inRange .eventEnable v = true ↔ v.extractLsb' 18 14 = 0) ∧
    (∀ d,
      ((Param.setting d .quota).inRange v = true ↔ 16 ≤ v.toNat ∧ v.toNat ≤ 512) ∧
      ((Param.setting d .policy).inRange v = true ↔ v.toNat ≤ 2) ∧
      ((Param.setting d .period).inRange v = true ↔ 10 ≤ v.toNat ∧ v.toNat ≤ 65535) ∧
      (∀ p ∈ [Setting.timerRun, .lineEn], (Param.setting d p).inRange v = true ↔ v.toNat ≤ 1) ∧
      (∀ p ∈ [Setting.writeHold, .groupHold, .sampleHold],
        (Param.setting d p).inRange v = true ↔ 1 ≤ v.toNat ∧ v.toNat ≤ 255)) ∧
    (∀ w, (Param.winBase w).inRange v = true ↔ v.extractLsb' 24 8 = 0) := by
  simp [Param.inRange, Setting.inRange, inSpan_iff]

/-- Settles O45. -/
theorem writeParamIsJudgedInOrder : Obligations.WriteParamIsJudgedInOrder := by
  refine ⟨fun s q t p n v tag r hq hl hr hres ht => ⟨?_, exec_writeParam_of_ne v tag hq hl hr⟩, fun q v => ?_, fun v => ?_⟩
  · have hresult : q.writeResult p v = r := by
      rw [hres, State.writeResult]
      cases p.inRange v <;> rfl
    have hwrite : q.writeParam p v = t := by rw [writeParam_eq, hresult, ht]
    rw [exec_writeParam p v tag hq hl hr, hwrite, hresult]
  · obtain ⟨hsetting, hwindow, hgroup⟩ := locks_table q v
    refine ⟨hsetting, hwindow, hgroup, rfl, rfl, rfl, fun d r hr => ?_⟩
    rw [← Bool.not_eq_true, setting_locks_iff]
    rintro ⟨rfl | rfl, -⟩ <;> simp at hr
  · obtain ⟨h1, h2, h3, h4, h5⟩ := inRange_table v
    refine ⟨h1, h2, h3, h4, h5, winCtrl_inRange_iff, grp_inRange_iff, ?_⟩
    simp [Param.inRange]

end Sys2Proof.Machine
end

section
/-! SUPPORT. The writes of TIMER_RUN_d and EVENT_ENABLE, ACK_EVENT and CLEAR_COUNTERS (R27, R142, R145, R157, R169). -/

namespace Sys2Proof.Machine

variable {s q u : State} {v : Word}

/-! ### TIMER_RUN_d, EVENT_ENABLE and IRQ_N (R27, R142, R143) -/

theorem writeResult_of_inRange {p : Param} (hv : p.inRange v = true) (hl : q.locks p v = false) : q.writeResult p v = .ok := by
  simp [State.writeResult, hv, hl]

/-- A value in range of a parameter that no domain locks is stored. -/
theorem exec_writeParam_of_inRange {p : Param} (tag : Byte) (hq : s.settle = q) (hl : q.listens) (hr : q.device = .running)
    (hv : p.inRange v = true) (hlock : q.locks p v = false) : exec (.writeParam p.num v tag) s =
      .next ((q.store p v).answering 0x21 p.num v tag { result := .ok, flags := 0, data := v }) := by
  have hok := writeResult_of_inRange hv hlock
  have hwrite : q.writeParam p v = q.store p v := by rw [writeParam_eq, if_pos hok]
  rw [exec_writeParam p v tag hq hl hr, hwrite, hok, store_param_same hv]

theorem timerRun_inRange_iff (d : Dom) : (Param.setting d .timerRun).inRange v = true ↔ v.toNat ≤ 1 := by
  simp [Param.inRange, Setting.inRange, inSpan_iff]

theorem eventEnable_inRange_iff : Param.inRange .eventEnable v = true ↔ v.toNat < 2 ^ 18 := by
  have htoNat : (v.extractLsb' 18 14).toNat = v.toNat / 2 ^ 18 % 2 ^ 14 := by
    simp [BitVec.extractLsb'_toNat, Nat.shiftRight_eq_div_pow]
  have hlt := v.isLt
  rw [Param.inRange, decide_eq_true_eq, ← BitVec.toNat_inj, htoNat]
  simp only [BitVec.ofNat_eq_ofNat, BitVec.toNat_ofNat]
  omega

theorem timerRun_unlocked (d : Dom) : q.locks (.setting d .timerRun) v = false := by
  rw [← Bool.not_eq_true, setting_locks_iff]
  simp

theorem writeTimerRun_true (x : Domain) : x.writeTimerRun true = { x with
    params := { x.params with timerRun := true }
    timer := if x.params.timerRun = false ∧ x.state ≠ .off then some x.params.period.toNat else x.timer } := by
  unfold Domain.writeTimerRun
  cases x.params.timerRun <;> simp

theorem irqN_eq_false_iff (hr : q.resetN = true) :
    q.irqN = false ↔ ∃ i : Fin 18, q.events[i].pending = true ∧ q.eventEnable.getLsbD i = true := by
  simp [State.irqN, State.interrupting, hr]

/-- Settles O46. -/
theorem timerRunAndEventEnableTakeEffect : Obligations.TimerRunAndEventEnableTakeEffect := by
  intro s q d n v tag hq hl hr hn
  subst hn
  have hreset : q.resetN = true := hl.1
  refine ⟨fun hv => ?_, fun hv => ?_, fun hv => ?_, fun hv => ?_, fun hv => ?_, irqN_eq_false_iff hreset⟩
  · subst hv
    exact exec_writeParam_of_inRange (p := .setting d .timerRun) tag hq hl hr rfl (timerRun_unlocked d)
  · subst hv
    have hstore : q.store (.setting d .timerRun) 1 = _ := congrArg (q.updDom d) (funext writeTimerRun_true)
    rw [← hstore]
    exact exec_writeParam_of_inRange (p := .setting d .timerRun) tag hq hl hr rfl (timerRun_unlocked d)
  · have hrange : (Param.setting d .timerRun).inRange v = false := by
      rw [← Bool.not_eq_true, timerRun_inRange_iff]; omega
    exact exec_writeParam_of_not_inRange tag hq hl hr (ofNum_num _) hrange
  · exact exec_writeParam_of_inRange (p := .eventEnable) tag hq hl hr (eventEnable_inRange_iff.2 hv) rfl
  · have hrange : Param.inRange .eventEnable v = false := by
      rw [← Bool.not_eq_true, eventEnable_inRange_iff]; omega
    exact exec_writeParam_of_not_inRange tag hq hl hr (ofNum_num .eventEnable) hrange

/-! ### ACK_EVENT (R145, R157) -/

theorem eventWord_shiftFrame (f : Frame) (i : Fin 18) : (q.shiftFrame f).eventWord i = q.eventWord i := by
  simp only [State.eventWord, shiftFrame_events, shiftFrame_eventEnable]

theorem clearPending_shiftFrame (f : Frame) (i : Fin 18) :
    (q.shiftFrame f).clearPending i = (q.clearPending i).shiftFrame f := rfl

/-- What ACK_EVENT makes of an event whose count it does or does not carry. -/
theorem ackEventBody_of_argEvent {arg : Byte} {data : Word} {i : Fin 18} (ha : argEvent arg = some i)
    (hc : (data.extractLsb' 0 8).toNat ≤ 15) :
    ackEventBody arg data u = if u.events[i].count.toNat = (data.extractLsb' 0 8).toNat then
      (u.clearPending i, .okData ((u.clearPending i).eventWord i)) else (u, { result := .stale, data := u.eventWord i }) := by
  unfold ackEventBody
  rw [ha]
  exact if_neg (by omega)

theorem ackEventBody_refused {arg : Byte} {data : Word} (h : 18 ≤ arg.toNat ∨ 15 < (data.extractLsb' 0 8).toNat) :
    ackEventBody arg data u = (u, .bare .badArgument) := by
  unfold ackEventBody
  split
  · rfl
  · next i hi =>
    rcases h with h | h
    · cases (argEvent_of_le h).symm.trans hi
    · exact if_pos h

/-- Settles O48. -/
theorem ackEventComparesTheCount : Obligations.AckEventComparesTheCount := by
  intro s q arg tag data hq hl hr
  subst hq
  refine ⟨fun i t hi ht => ⟨fun hc => ?_, fun hle hc => ?_⟩, fun h => ?_⟩
  · subst ht
    have hle : (data.extractLsb' 0 8).toNat ≤ 15 := by have := (s.settle.events[i].count).isLt; omega
    refine congrArg Host.Outcome.next (linkCommand_taken (u := s.settle.clearPending i) hl (.inl hr) fun f => ?_)
    rw [ackEventBody_of_argEvent (argEvent_of_eq hi) hle, shiftFrame_events, if_pos hc.symm, clearPending_shiftFrame,
      eventWord_shiftFrame]
    rfl
  · refine congrArg Host.Outcome.next (linkCommand_taken hl (.inl hr) fun f => ?_)
    rw [ackEventBody_of_argEvent (argEvent_of_eq hi) hle, shiftFrame_events, if_neg (Ne.symm hc), eventWord_shiftFrame]
  · exact congrArg Host.Outcome.next (linkCommand_taken hl (.inl hr) fun f => ackEventBody_refused h)

/-! ### CLEAR_COUNTERS (R169) -/

/-- What CLEAR_COUNTERS makes of the state, the link apart. -/
def State.cleared (s : State) (arg : Byte) : State := (clearCountersBody arg s).1

theorem arg_cases {arg : Byte} (h : arg.toNat ≤ 3) : arg = 0 ∨ arg = 1 ∨ arg = 2 ∨ arg = 3 := by
  rcases (by omega : arg.toNat = 0 ∨ arg.toNat = 1 ∨ arg.toNat = 2 ∨ arg.toNat = 3) with k | k | k | k
  · exact .inl (BitVec.eq_of_toNat_eq k)
  · exact .inr (.inl (BitVec.eq_of_toNat_eq k))
  · exact .inr (.inr (.inl (BitVec.eq_of_toNat_eq k)))
  · exact .inr (.inr (.inr (BitVec.eq_of_toNat_eq k)))

theorem clearDomCounters_counter (d e : Dom) (c : DomCounter) :
    (s.clearDomCounters d).counter e c = if e = d then 0 else s.counter e c := by
  unfold State.counter State.clearDomCounters
  by_cases h : e = d
  · subst h; simp
  · rw [updDom_dom_other _ h, if_neg h]

theorem clearDevCounters_devCounter (c : DevCounter) : s.clearDevCounters.devCounter c = 0 := by
  simp [State.devCounter, State.clearDevCounters]

theorem clearAllCounters_counter (d : Dom) (c : DomCounter) : s.clearAllCounters.counter d c = 0 := by
  have h : s.clearAllCounters.counter d c = ((s.clearDomCounters .d0).clearDomCounters .d1).counter d c :=
    counter_congr (by cases d <;> rfl) c
  rw [h, clearDomCounters_counter, clearDomCounters_counter]
  cases d <;> rfl

theorem clearDomCounters_shiftFrame (f : Frame) (d : Dom) :
    (s.shiftFrame f).clearDomCounters d = (s.clearDomCounters d).shiftFrame f := updDom_shiftFrame f d _

theorem clearDevCounters_shiftFrame (f : Frame) : (s.shiftFrame f).clearDevCounters = s.clearDevCounters.shiftFrame f := rfl

theorem clearCountersBody_shiftFrame {arg : Byte} (h : arg.toNat ≤ 3) (f : Frame) :
    clearCountersBody arg (s.shiftFrame f) = ((s.cleared arg).shiftFrame f, .bare .ok) := by
  rcases arg_cases h with rfl | rfl | rfl | rfl
  · exact congrArg (·, Reply.bare .ok) (clearDomCounters_shiftFrame f .d0)
  · exact congrArg (·, Reply.bare .ok) (clearDomCounters_shiftFrame f .d1)
  · rfl
  · refine congrArg (·, Reply.bare .ok) ?_
    rw [State.clearAllCounters, clearDomCounters_shiftFrame, clearDomCounters_shiftFrame, clearDevCounters_shiftFrame]
    rfl

theorem cleared_counter {arg : Byte} (h : arg.toNat ≤ 3) (d : Dom) (c : DomCounter) : (s.cleared arg).counter d c =
    if arg = 3 ∨ arg = (if d = .d0 then 0 else 1) then 0 else s.counter d c := by
  rcases arg_cases h with rfl | rfl | rfl | rfl
  · refine (clearDomCounters_counter .d0 d c).trans ?_
    cases d <;> rfl
  · refine (clearDomCounters_counter .d1 d c).trans ?_
    cases d <;> rfl
  · cases d <;> rfl
  · exact (clearAllCounters_counter d c).trans (if_pos (.inl rfl)).symm

theorem cleared_devCounter {arg : Byte} (h : arg.toNat ≤ 3) (c : DevCounter) : (s.cleared arg).devCounter c =
    if arg = 3 ∨ arg = 2 then 0 else s.devCounter c := by
  rcases arg_cases h with rfl | rfl | rfl | rfl
  · rfl
  · rfl
  · exact clearDevCounters_devCounter c
  · exact clearDevCounters_devCounter c

theorem cleared_frame {arg : Byte} (h : arg.toNat ≤ 3) :
    (∀ d, { (s.cleared arg).dom d with counters := (s.dom d).counters } = s.dom d) ∧
      { s.cleared arg with dom0 := s.dom0, dom1 := s.dom1, devCounters := s.devCounters } = s := by
  rcases arg_cases h with rfl | rfl | rfl | rfl
  all_goals exact ⟨fun d => by cases d <;> rfl, rfl⟩

/-- Settles O49. -/
theorem clearCountersClearsWhatItNames : Obligations.ClearCountersClearsWhatItNames := by
  intro s q arg tag data hq hl hr ha
  have hexec : exec (.clearCounters arg data tag) s =
      .next (q.linkCommand .clearCounters arg data tag (clearCountersBody arg)) := by
    rw [← hq]; rfl
  have hcounter := cleared_counter (s := q) ha
  have hdev := cleared_devCounter (s := q) ha
  obtain ⟨hdom, hframe⟩ := cleared_frame (s := q) ha
  have hlink : (q.cleared arg).link = q.link := (congrArg State.link hframe :)
  rw [hexec, linkCommand_taken hl (.inl hr) (clearCountersBody_shiftFrame ha)]
  generalize q.cleared arg = u at *
  refine ⟨_, rfl, fun d c => ?_, hdev, fun d => by rw [answering_dom]; exact hdom d,
    congrArg (fun k : Link => k.answered _ _ _ _) hlink, (congrArg (fun v : State => { v with link := q.link }) hframe :)⟩
  exact (counter_congr (by rw [answering_dom]) c).trans (hcounter d c)

end Sys2Proof.Machine
end

section
/-! SUPPORT. START and the table checks (R120, R121, Tables 7.5 and 10.9). -/

namespace Sys2Proof.Machine

variable {s q u : State} {d : Dom}

/-! ### The table checks of START (R121) -/

/-- The first of the numbers below `n` that yields a value, among those with a property. -/
theorem findSome?_filter_finRange_eq_some {α : Type} {n : Nat} {p : Fin n → Bool} {f : Fin n → Option α} {y : α} :
    ((List.finRange n).filter p).findSome? f = some y ↔
      ∃ w, p w = true ∧ f w = some y ∧ ∀ v < w, p v = true → f v = none := by
  have first : ∀ {z : α}, ((List.finRange n).filter p).findSome? f = some z →
      ∃ w, p w = true ∧ f w = some z ∧ ∀ v < w, p v = true → f v = none := by
    intro z hz
    obtain ⟨l₁, w, l₂, hl, hw, hnone⟩ := List.findSome?_eq_some_iff.1 hz
    have hsorted : (l₁ ++ w :: l₂).Pairwise (· < ·) := hl ▸ (List.pairwise_lt_finRange n).filter p
    have hmem : ∀ v, v ∈ l₁ ++ w :: l₂ ↔ p v = true := fun v => by rw [← hl]; simp
    refine ⟨w, (hmem w).1 (by simp), hw, fun v hv hp => ?_⟩
    obtain hv₁ | rfl | hv₂ : v ∈ l₁ ∨ v = w ∨ v ∈ l₂ := by simpa using (hmem v).2 hp
    · exact hnone v hv₁
    · exact absurd hv (lt_irrefl _)
    · exact absurd hv (not_lt_of_gt (List.rel_of_pairwise_cons (List.pairwise_append.1 hsorted).2.1 hv₂))
  refine ⟨first, fun ⟨w, hp, hw, hnone⟩ => ?_⟩
  cases hs : ((List.finRange n).filter p).findSome? f with
  | none =>
    cases (List.findSome?_eq_none_iff.1 hs w (by simp [hp])).symm.trans hw
  | some z =>
    obtain ⟨w', hp', hw', hnone'⟩ := first hs
    rcases lt_trichotomy w w' with h | rfl | h
    · cases (hnone' w h hp).symm.trans hw
    · exact hw'.symm.trans hw
    · cases (hnone w' h hp').symm.trans hw'

theorem windowsOf_iff {w : Fin 8} : (s.windows[w].enable && decide (s.windows[w].dom = d)) = true ↔ s.windowOf d w := by
  rw [Bool.and_eq_true, decide_eq_true_eq, State.windowOf]

theorem groupsOf_iff {g : Fin 16} : (s.inForce g && decide (s.groupDom g = d)) = true ↔ s.groupInDom d g := by
  rw [Bool.and_eq_true, decide_eq_true_eq, State.inForce, Bool.and_eq_true, and_assoc]
  rfl

theorem aligned_iff {w : Fin 8} : s.windows[w].aligned = true ↔ s.alignedWindow w := decide_eq_true_iff

theorem overlaps_iff {v w : Window} : v.overlaps w = true ↔
    ¬(w.base.toNat + 2 ^ w.k.toNat ≤ v.base.toNat ∨ v.base.toNat + 2 ^ v.k.toNat ≤ w.base.toNat) := by
  rw [Window.overlaps, Bool.and_eq_true, decide_eq_true_eq, decide_eq_true_eq, not_or, not_le, not_le]
  rfl

theorem overlapsAnother_iff {w : Fin 8} : s.overlapsAnother w = true ↔ ¬s.apartWindow w := by
  simp only [State.overlapsAnother, State.apartWindow, List.any_eq_true, List.mem_finRange, true_and, Bool.and_eq_true,
    decide_eq_true_eq, overlaps_iff, not_forall, exists_prop, and_assoc]

theorem shareWord_iff {g h : Fin 16} :
    s.shareWord g h = true ↔ ¬(s.groupClosing h < s.groupFirst g ∨ s.groupClosing g < s.groupFirst h) := by
  simp [State.shareWord]

theorem anyShares_iff {g : Fin 16} :
    ((s.groupsOf d).any fun h => decide (h ≠ g) && s.shareWord g h) = true ↔ ¬s.apartGroup d g := by
  simp only [List.any_eq_true, State.groupsOf, List.mem_filter, List.mem_finRange, true_and, State.apartGroup,
    not_forall, exists_prop]
  refine exists_congr fun h => (and_congr groupsOf_iff (by rw [Bool.and_eq_true, decide_eq_true_eq, shareWord_iff])).trans ?_
  exact and_left_comm

theorem windowFault_cases (s : State) (w : Fin 8) :
    (s.windowFault w = none ∧ s.alignedWindow w ∧ s.apartWindow w) ∨
    (s.windowFault w = some (.misaligned, w.val) ∧ ¬s.alignedWindow w) ∨
    (s.windowFault w = some (.windowOverlap, w.val) ∧ s.alignedWindow w ∧ ¬s.apartWindow w) := by
  have heq : s.windowFault w = if s.windows[w].aligned = true then
      if s.overlapsAnother w = true then some (.windowOverlap, w.val) else none else some (.misaligned, w.val) := by
    unfold State.windowFault
    cases s.windows[w].aligned <;> rfl
  rw [heq]
  by_cases ha : s.alignedWindow w
  · rw [if_pos (aligned_iff.2 ha)]
    by_cases hp : s.apartWindow w
    · exact .inl ⟨if_neg fun h => overlapsAnother_iff.1 h hp, ha, hp⟩
    · exact .inr (.inr ⟨if_pos (overlapsAnother_iff.2 hp), ha, hp⟩)
  · exact .inr (.inl ⟨if_neg (mt aligned_iff.1 ha), ha⟩)

theorem windowFault_eq_none_iff {w : Fin 8} : s.windowFault w = none ↔ s.alignedWindow w ∧ s.apartWindow w := by
  rcases windowFault_cases s w with ⟨h, ha, hp⟩ | ⟨h, ha⟩ | ⟨h, ha, hp⟩
  · simp [h, ha, hp]
  · simp [h, ha]
  · simp [h, hp]

theorem windowFault_eq_some_iff {w : Fin 8} {k : TableKind} {i : Nat} : s.windowFault w = some (k, i) ↔
    w.val = i ∧ ((k = .misaligned ∧ ¬s.alignedWindow w) ∨
      (k = .windowOverlap ∧ s.alignedWindow w ∧ ¬s.apartWindow w)) := by
  rcases windowFault_cases s w with ⟨h, ha, hp⟩ | ⟨h, ha⟩ | ⟨h, ha, hp⟩
  · simp [h, ha, hp]
  · simp [h, ha, eq_comm (a := k), and_comm]
  · simp [h, ha, hp, eq_comm (a := k), and_comm]

theorem outside_iff {g : Fin 16} :
    (s.groupWindow g).size < s.groups[g].offset.toNat + s.groups[g].length.toNat ↔ ¬s.insideGroup g := not_le.symm

theorem groupFault_cases (s : State) (d : Dom) (g : Fin 16) :
    (s.groupFault d g = none ∧ s.insideGroup g ∧ s.apartGroup d g) ∨
    (s.groupFault d g = some (.groupOutside, g.val) ∧ ¬s.insideGroup g) ∨
    (s.groupFault d g = some (.groupOverlap, g.val) ∧ s.insideGroup g ∧ ¬s.apartGroup d g) := by
  unfold State.groupFault
  by_cases hi : s.insideGroup g
  · rw [if_neg fun h => outside_iff.1 h hi]
    by_cases ha : s.apartGroup d g
    · exact .inl ⟨if_neg fun h => anyShares_iff.1 h ha, hi, ha⟩
    · exact .inr (.inr ⟨if_pos (anyShares_iff.2 ha), hi, ha⟩)
  · exact .inr (.inl ⟨if_pos (outside_iff.2 hi), hi⟩)

theorem groupFault_eq_none_iff {g : Fin 16} : s.groupFault d g = none ↔ s.insideGroup g ∧ s.apartGroup d g := by
  rcases groupFault_cases s d g with ⟨h, hi, ha⟩ | ⟨h, hi⟩ | ⟨h, hi, ha⟩
  · simp [h, hi, ha]
  · simp [h, hi]
  · simp [h, ha]

theorem groupFault_eq_some_iff {g : Fin 16} {k : TableKind} {i : Nat} : s.groupFault d g = some (k, i) ↔
    g.val = i ∧ ((k = .groupOutside ∧ ¬s.insideGroup g) ∨ (k = .groupOverlap ∧ s.insideGroup g ∧ ¬s.apartGroup d g)) := by
  rcases groupFault_cases s d g with ⟨h, hi, ha⟩ | ⟨h, hi⟩ | ⟨h, hi, ha⟩
  · simp [h, hi, ha]
  · simp [h, hi, eq_comm (a := k), and_comm]
  · simp [h, hi, ha, eq_comm (a := k), and_comm]

/-- No window of the domain has a fault. -/
def State.windowsSound (s : State) (d : Dom) : Prop := ∀ w, s.windowOf d w → s.alignedWindow w ∧ s.apartWindow w

theorem windowsOf_isEmpty : (s.windowsOf d).isEmpty = true ↔ ∀ w, ¬s.windowOf d w := by
  simp only [List.isEmpty_iff, State.windowsOf, List.filter_eq_nil_iff, List.mem_finRange, forall_true_left, windowsOf_iff]

theorem windowsOf_findSome?_eq_some {f : TableKind × Nat} : (s.windowsOf d).findSome? s.windowFault = some f ↔
    ∃ w, s.windowOf d w ∧ s.windowFault w = some f ∧ ∀ v < w, s.windowOf d v → s.alignedWindow v ∧ s.apartWindow v := by
  simp only [State.windowsOf, findSome?_filter_finRange_eq_some, windowsOf_iff, windowFault_eq_none_iff]

theorem windowsOf_findSome?_eq_none : (s.windowsOf d).findSome? s.windowFault = none ↔ s.windowsSound d := by
  simp only [State.windowsSound, State.windowsOf, List.findSome?_eq_none_iff, List.mem_filter, List.mem_finRange, true_and,
    windowsOf_iff, windowFault_eq_none_iff]

theorem groupsOf_findSome?_eq_some {f : TableKind × Nat} : (s.groupsOf d).findSome? (s.groupFault d) = some f ↔
    ∃ g, s.groupInDom d g ∧ s.groupFault d g = some f ∧ ∀ h < g, s.groupInDom d h → s.insideGroup h ∧ s.apartGroup d h := by
  simp only [State.groupsOf, findSome?_filter_finRange_eq_some, groupsOf_iff, groupFault_eq_none_iff]

theorem groupsOf_findSome?_eq_none : (s.groupsOf d).findSome? (s.groupFault d) = none ↔
    ∀ g, s.groupInDom d g → s.insideGroup g ∧ s.apartGroup d g := by
  simp only [State.groupsOf, List.findSome?_eq_none_iff, List.mem_filter, List.mem_finRange, true_and,
    groupsOf_iff, groupFault_eq_none_iff]

/-- The first check that fails: there is no window, a window has a fault, or a group has one (Table 7.5). -/
theorem tableFault_eq_some_iff {f : TableKind × Nat} : s.tableFault d = some f ↔
    ((∀ w, ¬s.windowOf d w) ∧ f = (.noWindow, 0)) ∨
    (∃ w, s.windowOf d w ∧ s.windowFault w = some f ∧ ∀ v < w, s.windowOf d v → s.alignedWindow v ∧ s.apartWindow v) ∨
    ((∃ w, s.windowOf d w) ∧ s.windowsSound d ∧ ∃ g, s.groupInDom d g ∧ s.groupFault d g = some f ∧
      ∀ h < g, s.groupInDom d h → s.insideGroup h ∧ s.apartGroup d h) := by
  unfold State.tableFault
  by_cases hw : ∀ w, ¬s.windowOf d w
  · rw [if_pos (windowsOf_isEmpty.2 hw)]
    simp only [hw, false_and, exists_false, or_false, not_false_eq_true, implies_true, true_and, Option.some.injEq, eq_comm]
  · rw [if_neg (mt windowsOf_isEmpty.1 hw)]
    have hex : ∃ w, s.windowOf d w := by simpa using hw
    rw [← windowsOf_findSome?_eq_some, ← groupsOf_findSome?_eq_some, ← windowsOf_findSome?_eq_none]
    cases hf : (s.windowsOf d).findSome? s.windowFault <;> simp [hw, hex]

theorem tableFault_eq_none_iff : s.tableFault d = none ↔
    (∃ w, s.windowOf d w) ∧ s.windowsSound d ∧ ∀ g, s.groupInDom d g → s.insideGroup g ∧ s.apartGroup d g := by
  unfold State.tableFault
  by_cases hw : ∀ w, ¬s.windowOf d w
  · rw [if_pos (windowsOf_isEmpty.2 hw)]
    simp [hw]
  · rw [if_neg (mt windowsOf_isEmpty.1 hw)]
    have hex : ∃ w, s.windowOf d w := by simpa using hw
    rw [← groupsOf_findSome?_eq_none, ← windowsOf_findSome?_eq_none]
    cases hf : (s.windowsOf d).findSome? s.windowFault <;> simp [hex]

/-- The fault that a domain's first window with one has, with that window's index. -/
theorem tableFault_window_iff {k : TableKind} {i : Nat} (hk : k = .misaligned ∨ k = .windowOverlap) :
    s.tableFault d = some (k, i) ↔ ∃ w, s.windowOf d w ∧ s.windowFault w = some (k, i) ∧
      ∀ v < w, s.windowOf d v → s.alignedWindow v ∧ s.apartWindow v := by
  rw [tableFault_eq_some_iff]
  refine ⟨fun h => ?_, fun h => .inr (.inl h)⟩
  rcases h with ⟨-, h⟩ | h | ⟨-, -, g, -, h, -⟩
  · rcases hk with rfl | rfl <;> cases h
  · exact h
  · rcases hk with rfl | rfl <;> simp [groupFault_eq_some_iff] at h

/-- The fault that a domain's first group with one has, where its windows have none. -/
theorem tableFault_group_iff {k : TableKind} {i : Nat} (hk : k = .groupOutside ∨ k = .groupOverlap) :
    s.tableFault d = some (k, i) ↔ (∃ w, s.windowOf d w) ∧ s.windowsSound d ∧
      ∃ g, s.groupInDom d g ∧ s.groupFault d g = some (k, i) ∧
        ∀ h < g, s.groupInDom d h → s.insideGroup h ∧ s.apartGroup d h := by
  rw [tableFault_eq_some_iff]
  refine ⟨fun h => ?_, fun h => .inr (.inr h)⟩
  rcases h with ⟨-, h⟩ | ⟨w, -, h, -⟩ | h
  · rcases hk with rfl | rfl <;> cases h
  · rcases hk with rfl | rfl <;> simp [windowFault_eq_some_iff] at h
  · exact h

theorem tableFault_noWindow_iff {i : Nat} : s.tableFault d = some (.noWindow, i) ↔ i = 0 ∧ ∀ w, ¬s.windowOf d w := by
  rw [tableFault_eq_some_iff]
  constructor
  · rintro (⟨h, hi⟩ | ⟨w, -, h, -⟩ | ⟨-, -, g, -, h, -⟩)
    · exact ⟨congrArg Prod.snd hi, h⟩
    · simp [windowFault_eq_some_iff] at h
    · simp [groupFault_eq_some_iff] at h
  · rintro ⟨rfl, h⟩
    exact .inl ⟨h, rfl⟩

/-! ### START (R120, R121) -/

theorem exec_start_of_argDom {arg : Byte} (data : Word) (tag : Byte) (ha : argDom arg = some d) (hq : s.settle = q) :
    exec (.start arg data tag) s = .next (q.linkCommand .start arg data tag (startDomain d)) := by
  rw [← hq, ← onDomain_of_argDom startDomain ha]
  rfl

theorem tableFault_shiftFrame (f : Frame) (d : Dom) : (q.shiftFrame f).tableFault d = q.tableFault d := rfl

theorem startDomain_of_inUse (h : (u.dom d).state ≠ .off) : startDomain d u = (u, .bare .state) :=
  if_pos (inUse_iff.2 h)

theorem startDomain_of_fault {f : TableKind × Nat} (h : (u.dom d).state = .off) (hf : u.tableFault d = some f) :
    startDomain d u = (u, { result := .invalidTable, data := tableFaultWord f }) := by
  unfold startDomain
  rw [if_neg fun hu => inUse_iff.1 hu h, hf]

theorem startDomain_of_sound (h : (u.dom d).state = .off) (hf : u.tableFault d = none) :
    startDomain d u = (u.updDom d Domain.started, .bare .ok) := by
  unfold startDomain
  rw [if_neg fun hu => inUse_iff.1 hu h, hf]

/-- The word of a fault: kind and index side by side (Table 10.9). -/
theorem tableFaultWord_eq : ∀ i : Fin 16,
    tableFaultWord (.noWindow, i) = BitVec.ofNat 32 (0x100 + i) ∧
    tableFaultWord (.misaligned, i) = BitVec.ofNat 32 (0x200 + i) ∧
    tableFaultWord (.windowOverlap, i) = BitVec.ofNat 32 (0x300 + i) ∧
    tableFaultWord (.groupOutside, i) = BitVec.ofNat 32 (0x400 + i) ∧
    tableFaultWord (.groupOverlap, i) = BitVec.ofNat 32 (0x500 + i) := by decide

/-- Settles O50. -/
theorem startJudgesTheTables : Obligations.StartJudgesTheTables := by
  refine ⟨fun s q d arg tag data hq hl hr harg => ?start, fun q d => ⟨tableFault_eq_none_iff, fun i => tableFault_noWindow_iff,
    fun i => ?misaligned, fun i => ?windowOverlap, fun i => ?groupOutside, fun i => ?groupOverlap⟩, tableFaultWord_eq⟩
  case start =>
    have hexec := exec_start_of_argDom data tag (harg ▸ argDom_number d) hq
    refine ⟨fun h => ?_, fun f h hf => ?_, fun h hf => ?_⟩
    · rw [hexec, linkCommand_taken hl (.inl hr) fun k => startDomain_of_inUse (by rwa [shiftFrame_dom])]
      rfl
    · rw [hexec, linkCommand_taken hl (.inl hr) fun k =>
        startDomain_of_fault (by rwa [shiftFrame_dom]) ((tableFault_shiftFrame k d).trans hf)]
      rfl
    · rw [hexec, linkCommand_taken (u := q.updDom d Domain.started) hl (.inl hr) fun k =>
        (startDomain_of_sound (by rwa [shiftFrame_dom]) ((tableFault_shiftFrame k d).trans hf)).trans
          (by rw [updDom_shiftFrame])]
      rfl
  case misaligned =>
    rw [tableFault_window_iff (.inl rfl)]
    simp only [windowFault_eq_some_iff, reduceCtorEq, false_and, or_false, true_and]
    exact exists_congr fun w => ⟨fun ⟨h1, ⟨h2, h3⟩, h4⟩ => ⟨h2, h1, h3, h4⟩, fun ⟨h2, h1, h3, h4⟩ => ⟨h1, ⟨h2, h3⟩, h4⟩⟩
  case windowOverlap =>
    rw [tableFault_window_iff (.inr rfl)]
    simp only [windowFault_eq_some_iff, reduceCtorEq, false_and, false_or, true_and]
    exact exists_congr fun w => ⟨fun ⟨h1, ⟨h2, h3, h4⟩, h5⟩ => ⟨h2, h1, h3, h4, h5⟩,
      fun ⟨h2, h1, h3, h4, h5⟩ => ⟨h1, ⟨h2, h3, h4⟩, h5⟩⟩
  case groupOutside =>
    rw [tableFault_group_iff (.inl rfl)]
    simp only [groupFault_eq_some_iff, reduceCtorEq, false_and, or_false, true_and]
    exact and_congr_right fun _ => and_congr_right fun _ => exists_congr fun g =>
      ⟨fun ⟨h1, ⟨h2, h3⟩, h4⟩ => ⟨h2, h1, h3, h4⟩, fun ⟨h2, h1, h3, h4⟩ => ⟨h1, ⟨h2, h3⟩, h4⟩⟩
  case groupOverlap =>
    rw [tableFault_group_iff (.inr rfl)]
    simp only [groupFault_eq_some_iff, reduceCtorEq, false_and, false_or, true_and]
    exact and_congr_right fun _ => and_congr_right fun _ => exists_congr fun g =>
      ⟨fun ⟨h1, ⟨h2, h3, h4⟩, h5⟩ => ⟨h2, h1, h3, h4, h5⟩, fun ⟨h2, h1, h3, h4, h5⟩ => ⟨h1, ⟨h2, h3, h4⟩, h5⟩⟩

end Sys2Proof.Machine
end

section
/-! SUPPORT. A boundary request: ignored, creating, merging (R33 to R38, R51). -/

namespace Sys2Proof.Machine

variable {s t : State} {d : Dom}

/-! ### A boundary request: ignored, creating, merging (R33 to R38) -/

theorem request_of_not_journals (c : Cause) (hj : ¬s.journals d) : s.request d c = s := by
  have ht : s.takesRequests d = false := by rwa [← Bool.not_eq_true, takesRequests_iff]
  unfold State.request
  rw [ht]
  rfl

theorem add_eq (cs : Causes) (c : Cause) : cs.add c =
    { timer := cs.timer || decide (c = .timer), line := cs.line || decide (c = .line), fill := cs.fill || decide (c = .fill)
      link := cs.link || decide (c = .link), stop := cs.stop || decide (c = .stop) } := by
  cases c <;> simp [Causes.add]

theorem create_eq (c : Cause) (n : Nat) : Boundary.create c n =
    { causes := { timer := decide (c = .timer), line := decide (c = .line), fill := decide (c = .fill)
                  link := decide (c = .link), stop := decide (c = .stop) }
      merged := 0, requestTick := n, final := decide (c = .stop), groupExpired := false, sampleExpired := false } := by
  rw [Boundary.create, add_eq]
  rfl

/-- The scheduler after a request that creates the record: SETTLE at once where no element and no entry of the domain drains. -/
def State.schedCreated (s : State) (d : Dom) (b : Boundary) : Sched :=
  if (s.dom d).drainBank = [] ∧ ∀ e ∈ s.queue, e.dom ≠ d then
    .settle b (some (s.dom d).params.groupHold.toNat) (some (s.dom d).params.sampleHold.toNat)
  else .drainWait b

theorem request_of_idle (c : Cause) (hj : s.journals d) (hi : (s.dom d).sched = .idle) :
    s.request d c = s.updDom d fun x => { x with sched := s.schedCreated d (.create c s.time.tick) } := by
  have hcond : ((s.dom d).drainBank.isEmpty && !s.queued d) = true ↔ (s.dom d).drainBank = [] ∧ ∀ e ∈ s.queue, e.dom ≠ d := by
    simp [State.queued]
  unfold State.request
  rw [takesRequests_iff.2 hj, hi]
  unfold State.schedCreated
  by_cases hc : (s.dom d).drainBank = [] ∧ ∀ e ∈ s.queue, e.dom ≠ d
  · rw [if_pos hc]
    exact (if_pos (hcond.2 hc)).trans (updDom_congr rfl)
  · rw [if_neg hc]
    exact if_neg (mt hcond.1 hc)

/-- The scheduler with the record `b` in the place of its own. -/
def Sched.withRecord (b : Boundary) : Sched → Sched
  | .idle => .idle
  | .drainWait _ => .drainWait b
  | .settle _ g l => .settle b g l

theorem request_of_record {b : Boundary} (c : Cause) (hj : s.journals d) (hb : (s.dom d).sched.record = some b) :
    s.request d c = (s.updDom d fun x => { x with sched := (s.dom d).sched.withRecord (b.merge c) }).noteMerge d := by
  unfold State.request
  rw [takesRequests_iff.2 hj]
  cases hk : (s.dom d).sched with
  | idle => rw [hk] at hb; cases hb
  | drainWait a => rw [hk] at hb; cases hb; rfl
  | settle a g l => rw [hk] at hb; cases hb; rfl

/-! What the merge counts, raises and leaves (R35). -/

theorem merge_dom (k : Sched) : ((s.updDom d fun x => { x with sched := k }).noteMerge d).dom d =
    { s.dom d with
      sched := k, counters := (((s.updDom d fun x => { x with sched := k }).noteMerge d).dom d).counters } := by
  cases d <;> rfl

theorem merge_counted (k : Sched) : s.counted ((s.updDom d fun x => { x with sched := k }).noteMerge d) d
    fun c => if c = .merged then 1 else 0 := by
  refine counted_congr (bump_counted (s := s.updDom d fun x => { x with sched := k }) d .merged 1) ?_ ?_
  · cases d <;> rfl
  · rw [State.noteMerge, raise_dom]

theorem merge_occurred (k : Sched) : s.occurred ((s.updDom d fun x => { x with sched := k }).noteMerge d)
    fun e => decide (e = .dom d .merged) :=
  occurred_congr (raise_occurred (s := (s.updDom d fun x => { x with sched := k }).bump d .merged 1) (.dom d .merged))
    (by simp) rfl

theorem merge_frame (k : Sched) :
    ((s.updDom d fun x => { x with sched := k }).noteMerge d).dom (otherDom d) = s.dom (otherDom d) ∧
      { (s.updDom d fun x => { x with sched := k }).noteMerge d with
        dom0 := s.dom0, dom1 := s.dom1, events := s.events } = s := by
  cases d <;> exact ⟨rfl, rfl⟩

/-! A second request that arrives with the one that created the record (R36, R51). -/

/-- With nothing due before, a new record makes nothing due but its own commit point. -/
theorem State.NothingDue.record (hn : s.NothingDue {}) (k : Sched) :
    (s.updDom d fun x => { x with sched := k }).NothingDue { commit := some d } := by
  have hx : ∀ e, ((s.updDom d fun x => { x with sched := k }).dom e).openBank = (s.dom e).openBank ∧
      ((s.updDom d fun x => { x with sched := k }).dom e).drainBank = (s.dom e).drainBank ∧
      ((s.updDom d fun x => { x with sched := k }).dom e).params = (s.dom e).params ∧
      ((s.updDom d fun x => { x with sched := k }).dom e).state = (s.dom e).state := fun e => by
    cases d <;> cases e <;> exact ⟨rfl, rfl, rfl, rfl⟩
  have hother : ∀ e, e ≠ d → (s.updDom d fun x => { x with sched := k }).dom e = s.dom e := fun e he =>
    updDom_dom_other s he _
  refine ⟨fun w hw hs => ?_, fun e rest hq hp => ?_, fun e b g l hs hc => ?_, fun w hw hs => ?_, ?_, ?_, ?_⟩
  · rw [updDom_held] at hw
    obtain ⟨ho, -, hpar, -⟩ := hx w.dom
    rw [ho, hpar, updDom_free]
    exact hn.place w hw hs
  · rw [updDom_queue] at hq
    obtain ⟨-, hd, -, -⟩ := hx e.dom
    rw [hd]
    exact hn.drainEnd e rest hq hp
  · have he : e ≠ d := fun h => hc (by rw [h])
    rw [hother e he] at hs ⊢
    have h := hn.commit e b g l hs (by simp)
    cases d <;> exact h
  · rw [updDom_held] at hw
    obtain ⟨-, -, -, hst⟩ := hx w.dom
    rw [hst]
    exact hn.release w hw hs
  · rw [updDom_queue, updDom_engine]; exact hn.begin
  · rw [updDom_queue, updDom_device]; exact hn.restart
  · rw [updDom_arb]; exact hn.grant

theorem hasSource_add (c k : Cause) (h : (Causes.empty.add c).hasSource k = true) :
    k = c ∨ (k = .link ∧ c = .stop) ∨ (k = .stop ∧ c = .link) := by
  rw [add_eq] at h
  cases k
  case timer | line | fill => exact .inl (Eq.symm (by simpa [Causes.hasSource, Causes.empty] using h))
  case link =>
    have hc : c = .link ∨ c = .stop := by simpa [Causes.hasSource, Causes.empty] using h
    exact hc.imp Eq.symm fun hc => .inl ⟨rfl, hc⟩
  case stop =>
    have hc : c = .link ∨ c = .stop := by simpa [Causes.hasSource, Causes.empty] using h
    exact hc.elim (fun hc => .inr (.inr ⟨rfl, hc⟩)) fun hc => .inl hc.symm

theorem settleForRequest_of_created {c k : Cause} (hn : s.NothingDue {}) (hj : s.journals d)
    (hi : (s.dom d).sched = .idle) (hk : (Causes.empty.add c).hasSource k = false) :
    (s.request d c).settleForRequest d k = s.request d c := by
  have hreq := request_of_idle c hj hi
  have hsource : ¬(Boundary.create c s.time.tick).causes.hasSource k = true := by rw [Bool.not_eq_true]; exact hk
  have hhold : (s.request d c).holdFor d k = { commit := some d } := by
    rw [hreq]
    unfold State.holdFor State.schedCreated
    rw [updDom_dom_same]
    split
    · next h => split at h <;> cases h
    · next b h => split at h <;> cases h; exact if_neg hsource
    · next b g l h => split at h <;> cases h; exact if_neg hsource
  rw [State.settleForRequest, hhold, hreq]
  cases hr : s.resetN with
  | false => exact settleHolding_low (by simpa using hr)
  | true => exact settleHolding_of_nothingDue (by simpa using hr) (hn.record _)

/-- Settles O27. -/
theorem requestIsIgnoredCreatesOrMerges : Obligations.RequestIsIgnoredCreatesOrMerges := by
  intro s d c
  refine ⟨request_of_not_journals c, fun hj hi => ?creates, fun b m hj hm hs => ?merges, fun k hn hj hi => ?together⟩
  case creates =>
    rw [request_of_idle c hj hi, create_eq]
    exact updDom_congr rfl
  case merges =>
    have hmerge : b.merge c = m := by
      rw [hm, Boundary.merge, add_eq]
      rfl
    have hrec : (s.dom d).sched.record = some b := by
      rcases hs with hs | ⟨g, l, hs⟩ <;> rw [hs] <;> rfl
    rw [request_of_record c hj hrec, hmerge]
    obtain ⟨hother, hframe⟩ := merge_frame (s := s) (d := d) ((s.dom d).sched.withRecord m)
    refine ⟨(merge_dom _).trans ?_, merge_counted _, merge_occurred _, hother, hframe⟩
    rcases hs with hs | ⟨g, l, hs⟩
    · rw [hs] <;> rfl
    · rw [hs] <;> rfl
  case together =>
    cases hk : (Causes.empty.add c).hasSource k with
    | true => exact .inl (hasSource_add c k hk)
    | false => exact .inr (settleForRequest_of_created hn hj hi hk)

end Sys2Proof.Machine
end

section
/-! SUPPORT. What the argument of a reading command names (Table 10.3). -/

namespace Sys2Proof.Machine

variable {s q : State} {arg : Byte}

/-! ### What the argument of a reading command names (Table 10.3) -/

theorem argLow_eq : argLow arg = arg.toNat % 16 := by
  simp [argLow, BitVec.extractLsb'_toNat]

theorem argHigh_eq : argHigh arg = arg.toNat / 16 := by
  have := arg.isLt
  simp [argHigh, BitVec.extractLsb'_toNat, Nat.shiftRight_eq_div_pow]
  omega

theorem argLow_lt : argLow arg < 16 := by rw [argLow_eq]; omega

/-- The two digits of an argument byte are the byte. -/
theorem arg_eq_of_digits {l h : Nat} (hl : argLow arg = l) (hh : argHigh arg = h) : arg = BitVec.ofNat 8 (16 * h + l) := by
  rw [argLow_eq] at hl
  rw [argHigh_eq] at hh
  apply BitVec.eq_of_toNat_eq
  have := arg.isLt
  rw [BitVec.toNat_ofNat]
  omega

theorem argLow_ofNat {l h : Nat} (hl : l < 16) : argLow (BitVec.ofNat 8 (16 * h + l)) = l := by
  rw [argLow_eq, BitVec.toNat_ofNat]
  omega

theorem argHigh_ofNat {l h : Nat} (hl : l < 16) (hh : h < 16) : argHigh (BitVec.ofNat 8 (16 * h + l)) = h := by
  rw [argHigh_eq, BitVec.toNat_ofNat]
  omega

theorem stateReply_of_not_mem (h : arg ∉ [0x00, 0x10, 0x01, 0x11, 0x02, 0x12]) : s.stateReply arg = .bare .badArgument := by
  unfold State.stateReply
  split
  case h_7 => rfl
  all_goals
    next hl hh =>
      refine absurd ?_ h
      rw [arg_eq_of_digits hl hh]
      decide

theorem resetRecordReply_of_not_mem (h : arg ∉ [0x00, 0x10, 0x01, 0x11, 0x02]) :
    s.resetRecordReply arg = .bare .badArgument := by
  unfold State.resetRecordReply
  split
  case h_6 => rfl
  all_goals
    next hl hh =>
      refine absurd ?_ h
      rw [arg_eq_of_digits hl hh]
      decide

theorem counterReply_domain (d : Dom) (c : DomCounter) :
    s.counterReply (BitVec.ofNat 8 (16 * (DomCounter.idx c).val + (if d = .d0 then 0 else 1))) =
      .okData ((s.counter d c).setWidth 32) := by
  have hidx : (DomCounter.idx c).val < 16 := by have := (DomCounter.idx c).isLt; omega
  unfold State.counterReply
  rw [argLow_ofNat (by split <;> omega), argHigh_ofNat (by split <;> omega) hidx]
  have hat : s.counterAt (if d = .d0 then 0 else 1) (DomCounter.idx c).val = some (s.counter d c) := by
    cases d
    · exact Vector.getElem?_eq_getElem (DomCounter.idx c).isLt
    · exact Vector.getElem?_eq_getElem (DomCounter.idx c).isLt
  rw [hat]

theorem counterReply_device (c : DevCounter) : s.counterReply (BitVec.ofNat 8 (16 * (DevCounter.idx c).val + 2)) =
    .okData ((s.devCounter c).setWidth 32) := by
  have hidx : (DevCounter.idx c).val < 16 := by have := (DevCounter.idx c).isLt; omega
  have hat : s.counterAt 2 (DevCounter.idx c).val = some (s.devCounter c) :=
    Vector.getElem?_eq_getElem (DevCounter.idx c).isLt
  unfold State.counterReply
  rw [argLow_ofNat (by omega), argHigh_ofNat (by omega) hidx, hat]

theorem counterReply_of_none
    (h : 2 < argLow arg ∨ (argLow arg < 2 ∧ 10 < argHigh arg) ∨ (argLow arg = 2 ∧ 2 < argHigh arg)) :
    s.counterReply arg = .bare .badArgument := by
  have hat : s.counterAt (argLow arg) (argHigh arg) = none := by
    unfold State.counterAt
    split
    · next hl => exact Vector.getElem?_eq_none (by omega)
    · next hl => exact Vector.getElem?_eq_none (by omega)
    · next hl => exact Vector.getElem?_eq_none (by omega)
    · rfl
  unfold State.counterReply
  rw [hat]

theorem historyReply_of_some {w : Fin 4} {r : HistoryRecord} (hw : argHigh arg = w.val) (hr : s.history[argLow arg]? = some r) :
    s.historyReply arg = { result := .ok, flags := r.flags, data := r.word w } := by
  have hlt : argHigh arg < 4 := by omega
  unfold State.historyReply
  rw [dif_pos hlt, hr]
  have hword : (⟨argHigh arg, hlt⟩ : Fin 4) = w := Fin.ext hw
  exact congrArg (fun v => ({ result := .ok, flags := r.flags, data := r.word v } : Reply)) hword

theorem historyReply_of_none (hlt : argHigh arg < 4) (hr : s.history[argLow arg]? = none) : s.historyReply arg = .bare .ok := by
  unfold State.historyReply
  rw [dif_pos hlt, hr]

theorem historyReply_of_le (h : 3 < argHigh arg) : s.historyReply arg = .bare .badArgument := dif_neg (by omega)

theorem paramReply_of_ne {n : Byte} (h : ∀ p : Param, p.num ≠ n) : s.paramReply n = .bare .badArgument := by
  have hnone : Param.ofNum? n = none := (Option.eq_none_or_eq_some _).resolve_right fun ⟨k, hk⟩ => h k (num_of_ofNum hk)
  unfold State.paramReply
  rw [hnone]

/-- Settles O41. -/
theorem readArgumentsNameWhatIsRead : Obligations.ReadArgumentsNameWhatIsRead := by
  rintro s arg bad rfl
  exact ⟨fun p => paramReply_of_ofNum (ofNum_num p), paramReply_of_ne, rfl, rfl, rfl, rfl, rfl, rfl, stateReply_of_not_mem,
    counterReply_domain, counterReply_device, counterReply_of_none, fun w r => historyReply_of_some, historyReply_of_none,
    historyReply_of_le, rfl, rfl, rfl, rfl, rfl, resetRecordReply_of_not_mem⟩

end Sys2Proof.Machine
end

section
/-! SUPPORT. The fields of the words that the reading commands return (Tables 10.7 and 10.8). -/

namespace Sys2Proof.Machine

variable {s : State}

/-! ### The fields of the words that the reading commands return (Tables 10.7 and 10.8) -/

theorem getLsbD_append_low {m n i : Nat} {x : BitVec m} {y : BitVec n} (h : i < n) : (x ++ y).getLsbD i = y.getLsbD i := by
  rw [BitVec.getLsbD_append, if_pos h]

theorem getLsbD_append_high {m n i : Nat} {x : BitVec m} {y : BitVec n} (h : n ≤ i) :
    (x ++ y).getLsbD i = x.getLsbD (i - n) := by
  rw [BitVec.getLsbD_append, if_neg (by omega)]

theorem domWord0_fields (x : Domain) :
    x.word0.extractLsb' 0 10 = BitVec.ofNat 10 x.openBank.length ∧
    x.word0.extractLsb' 10 10 = BitVec.ofNat 10 x.drainBank.length ∧
    x.word0.getLsbD 20 = x.sampleN ∧ x.word0.getLsbD 21 = x.commitOut ∧ x.word0.extractLsb' 22 10 = 0 := by
  unfold Domain.word0
  simp (disch := decide) only [BitVec.extractLsb'_append_eq_of_add_le, BitVec.extractLsb'_append_eq_of_le,
    getLsbD_append_low, getLsbD_append_high, -Nat.reduceAdd]
  simp

theorem domWord1_fields (x : Domain) :
    x.word1.extractLsb' 0 2 = x.state.bits ∧ x.word1.extractLsb' 2 2 = x.sched.bits ∧
    x.word1.extractLsb' 4 12 = boundaryBits x.sched.record ∧ x.word1.extractLsb' 16 16 = x.epoch := by
  unfold Domain.word1
  simp (disch := decide) only [BitVec.extractLsb'_append_eq_of_add_le, BitVec.extractLsb'_append_eq_of_le, -Nat.reduceAdd]
  simp

/-- A bit of a field is a bit of the word. -/
theorem getLsbD_of_field {n : Nat} {v : Word} {f : BitVec n} {k i : Nat} (h : v.extractLsb' k n = f) (hi : i < n) :
    v.getLsbD (k + i) = f.getLsbD i := by
  rw [← h, BitVec.getLsbD_extractLsb']
  simp [hi]

theorem boundaryBits_fields (b : Boundary) :
    (boundaryBits (some b)).extractLsb' 0 5 = b.causes.bits ∧
    (boundaryBits (some b)).extractLsb' 5 4 = BitVec.ofNat 4 b.merged ∧ (boundaryBits (some b)).getLsbD 9 = b.final ∧
    (boundaryBits (some b)).getLsbD 10 = b.groupExpired ∧ (boundaryBits (some b)).getLsbD 11 = b.sampleExpired := by
  unfold boundaryBits
  simp (disch := decide) only [BitVec.extractLsb'_append_eq_of_add_le, BitVec.extractLsb'_append_eq_of_le,
    getLsbD_append_low, getLsbD_append_high, -Nat.reduceAdd]
  simp

theorem causesBits_fields (c : Causes) :
    c.bits.getLsbD 0 = c.timer ∧ c.bits.getLsbD 1 = c.line ∧ c.bits.getLsbD 2 = c.fill ∧ c.bits.getLsbD 3 = c.link ∧
    c.bits.getLsbD 4 = c.stop := by
  unfold Causes.bits
  simp (disch := decide) only [getLsbD_append_low, getLsbD_append_high, -Nat.reduceAdd]
  simp

theorem extractLsb'_of_field {n : Nat} {v : Word} {f : BitVec n} {k i m : Nat} (h : v.extractLsb' k n = f) (hi : i + m ≤ n) :
    v.extractLsb' (k + i) m = f.extractLsb' i m := by
  rw [← h]
  refine BitVec.eq_of_getLsbD_eq fun j hj => ?_
  simp only [BitVec.getLsbD_extractLsb', hj, decide_true, Bool.true_and, Nat.add_assoc]
  rw [decide_eq_true (by omega), Bool.true_and]

/-- Word 1 of a domain whose scheduler holds a record (R43). -/
theorem domWord1_record {x : Domain} {b : Boundary} (hb : x.sched.record = some b) :
    x.word1.getLsbD 4 = b.causes.timer ∧ x.word1.getLsbD 5 = b.causes.line ∧ x.word1.getLsbD 6 = b.causes.fill ∧
    x.word1.getLsbD 7 = b.causes.link ∧ x.word1.getLsbD 8 = b.causes.stop ∧
    x.word1.extractLsb' 9 4 = BitVec.ofNat 4 b.merged ∧ x.word1.getLsbD 13 = b.final ∧
    x.word1.getLsbD 14 = b.groupExpired ∧ x.word1.getLsbD 15 = b.sampleExpired := by
  obtain ⟨-, -, hfield, -⟩ := domWord1_fields x
  rw [hb] at hfield
  obtain ⟨hcauses, hmerged, hfinal, hgroup, hsample⟩ := boundaryBits_fields b
  obtain ⟨htimer, hline, hfill, hlink, hstop⟩ := causesBits_fields b.causes
  have hcause : x.word1.extractLsb' 4 5 = b.causes.bits := (extractLsb'_of_field (i := 0) hfield (by decide)).trans hcauses
  exact ⟨(getLsbD_of_field (i := 0) hcause (by decide)).trans htimer, (getLsbD_of_field (i := 1) hcause (by decide)).trans hline,
    (getLsbD_of_field (i := 2) hcause (by decide)).trans hfill, (getLsbD_of_field (i := 3) hcause (by decide)).trans hlink,
    (getLsbD_of_field (i := 4) hcause (by decide)).trans hstop,
    (extractLsb'_of_field (i := 5) hfield (by decide)).trans hmerged,
    (getLsbD_of_field (i := 9) hfield (by decide)).trans hfinal, (getLsbD_of_field (i := 10) hfield (by decide)).trans hgroup,
    (getLsbD_of_field (i := 11) hfield (by decide)).trans hsample⟩

theorem domBit_eq (d : Dom) : domBit d = decide (d = .d1) := by cases d <;> rfl

theorem heldBits_fields (h : Option HeldWrite) :
    (heldBits h).getLsbD 0 = h.isSome ∧ (heldBits h).getLsbD 1 = h.any (fun h => decide (h.dom = .d1)) ∧
    (heldBits h).extractLsb' 2 2 = (h.map fun h => h.reason.bits).getD 0 := by
  cases h with
  | none => exact ⟨rfl, rfl, rfl⟩
  | some h =>
    have hreason : (heldBits (some h)).extractLsb' 2 2 = h.reason.bits := by
      unfold heldBits
      simp (disch := decide) only [BitVec.extractLsb'_append_eq_of_le, -Nat.reduceAdd]
      simp
    have hdom : (heldBits (some h)).getLsbD 1 = domBit h.dom := by
      unfold heldBits
      simp (disch := decide) only [getLsbD_append_low, getLsbD_append_high, -Nat.reduceAdd]
      simp
    have hheld : (heldBits (some h)).getLsbD 0 = true := by
      unfold heldBits
      simp (disch := decide) only [getLsbD_append_low, -Nat.reduceAdd]
      simp
    exact ⟨hheld, hdom.trans (domBit_eq _), hreason⟩

theorem elementBits_fields (e : Option Element) :
    (elementBits e).1 = BitVec.ofBool (e.any fun e => decide (e.dom = .d1)) ∧
    (elementBits e).2.1 = BitVec.ofBool (e.any fun e => e.fence) ∧
    (elementBits e).2.2 = BitVec.ofBool (e.any fun e => decide (e.phase = .draining)) := by
  cases e with
  | none => exact ⟨rfl, rfl, rfl⟩
  | some e => exact ⟨congrArg BitVec.ofBool (domBit_eq e.dom), rfl, rfl⟩

theorem deviceWord0_fields (s : State) :
    s.deviceWord0.extractLsb' 0 10 = BitVec.ofNat 10 s.free ∧ s.deviceWord0.extractLsb' 10 4 = heldBits s.held ∧
    s.deviceWord0.getLsbD 14 = decide (s.device = .restarting) ∧
    s.deviceWord0.extractLsb' 15 2 = BitVec.ofNat 2 s.queue.length ∧
    s.deviceWord0.getLsbD 17 = s.queue[0]?.any (fun e => decide (e.dom = .d1)) ∧
    s.deviceWord0.getLsbD 18 = s.queue[1]?.any (fun e => decide (e.dom = .d1)) ∧
    s.deviceWord0.getLsbD 19 = s.queue[0]?.any (fun e => e.fence) ∧
    s.deviceWord0.getLsbD 20 = s.queue[0]?.any (fun e => decide (e.phase = .draining)) ∧
    s.deviceWord0.getLsbD 21 = s.queue[1]?.any (fun e => e.fence) ∧
    s.deviceWord0.getLsbD 22 = s.queue[1]?.any (fun e => decide (e.phase = .draining)) ∧
    s.deviceWord0.getLsbD 23 = decide (s.engine = .writing) ∧ s.deviceWord0.extractLsb' 24 8 = 0 := by
  obtain ⟨hdom0, hfence0, hphase0⟩ := elementBits_fields s.queue[0]?
  obtain ⟨hdom1, hfence1, hphase1⟩ := elementBits_fields s.queue[1]?
  simp only [State.deviceWord0, hdom0, hfence0, hphase0, hdom1, hfence1, hphase1]
  simp (disch := decide) only [BitVec.extractLsb'_append_eq_of_add_le, BitVec.extractLsb'_append_eq_of_le,
    getLsbD_append_low, getLsbD_append_high, -Nat.reduceAdd]
  simp

theorem recordWord_fields (s : State) :
    s.recordWord.getLsbD 0 = s.recValid ∧ s.recordWord.getLsbD 1 = s.recHeldLost ∧ s.recordWord.extractLsb' 2 30 = 0 := by
  unfold State.recordWord
  simp (disch := decide) only [BitVec.extractLsb'_append_eq_of_le, getLsbD_append_low, getLsbD_append_high, -Nat.reduceAdd]
  simp

theorem lostRecord_fields (r : LostRecord) :
    r.word0.extractLsb' 0 16 = r.epoch ∧ r.word0.extractLsb' 16 2 = r.status.bits ∧
    r.word0.extractLsb' 18 10 = BitVec.ofNat 10 r.openLost ∧ r.word0.extractLsb' 28 4 = 0 ∧
    r.word1.extractLsb' 0 10 = BitVec.ofNat 10 r.written ∧ r.word1.extractLsb' 10 10 = BitVec.ofNat 10 r.unwritten ∧
    r.word1.extractLsb' 20 12 = 0 := by
  unfold LostRecord.word0 LostRecord.word1
  simp (disch := decide) only [BitVec.extractLsb'_append_eq_of_add_le, BitVec.extractLsb'_append_eq_of_le, -Nat.reduceAdd]
  simp

theorem historyWord0_fields (r : HistoryRecord) :
    (r.word 0).extractLsb' 0 16 = r.epoch ∧ (r.word 0).extractLsb' 16 16 = r.serial := by
  simp only [HistoryRecord.word]
  simp (disch := decide) only [BitVec.extractLsb'_append_eq_of_add_le, BitVec.extractLsb'_append_eq_of_le, -Nat.reduceAdd]
  simp

theorem historyWord1_fields (r : HistoryRecord) :
    (r.word 1).extractLsb' 0 5 = r.causes.bits ∧ (r.word 1).extractLsb' 5 4 = BitVec.ofNat 4 r.merged ∧
    (r.word 1).getLsbD 9 = r.final ∧ (r.word 1).getLsbD 10 = r.empty ∧ (r.word 1).getLsbD 11 = r.sampleOverride ∧
    (r.word 1).extractLsb' 12 5 = BitVec.ofNat 5 r.abandoned ∧ (r.word 1).extractLsb' 24 8 = r.serial.setWidth 8 := by
  simp only [HistoryRecord.word]
  simp (disch := decide) only [BitVec.extractLsb'_append_eq_of_add_le, BitVec.extractLsb'_append_eq_of_le,
    getLsbD_append_low, getLsbD_append_high, -Nat.reduceAdd]
  simp

theorem historyWord2_fields (r : HistoryRecord) :
    (r.word 2).extractLsb' 0 10 = BitVec.ofNat 10 r.committed ∧ (r.word 2).extractLsb' 10 10 = BitVec.ofNat 10 r.lost ∧
    (r.word 2).extractLsb' 20 2 = r.drain.bits ∧ (r.word 2).extractLsb' 24 8 = r.serial.setWidth 8 := by
  simp only [HistoryRecord.word]
  simp (disch := decide) only [BitVec.extractLsb'_append_eq_of_add_le, BitVec.extractLsb'_append_eq_of_le, -Nat.reduceAdd]
  simp

theorem historyWord3_fields (r : HistoryRecord) :
    (r.word 3).extractLsb' 0 16 = BitVec.ofNat 16 r.waitTicks ∧ (r.word 3).extractLsb' 24 8 = r.serial.setWidth 8 := by
  simp only [HistoryRecord.word]
  simp (disch := decide) only [BitVec.extractLsb'_append_eq_of_add_le, BitVec.extractLsb'_append_eq_of_le, -Nat.reduceAdd]
  simp

/-- The low byte of the serial number stands in the high byte of words 1 to 3. -/
theorem history_serialByte (r : HistoryRecord) {w : Fin 4} (hw : w ≠ 0) :
    (r.word w).extractLsb' 24 8 = r.serial.extractLsb' 0 8 := by
  have hbyte : r.serial.setWidth 8 = r.serial.extractLsb' 0 8 := by simp [BitVec.setWidth_eq_extractLsb']
  obtain ⟨-, -, -, -, -, -, h1⟩ := historyWord1_fields r
  obtain ⟨-, -, -, h2⟩ := historyWord2_fields r
  obtain ⟨-, h3⟩ := historyWord3_fields r
  match w with
  | 0 => exact absurd rfl hw
  | 1 => exact h1.trans hbyte
  | 2 => exact h2.trans hbyte
  | 3 => exact h3.trans hbyte

theorem history_flags (r : HistoryRecord) : r.flags = 8 + (if r.dom = .d1 then 4 else 0) := by
  unfold HistoryRecord.flags
  cases r.dom <;> rfl

/-! ### Word 1 of the device (R65) -/

theorem getLsbD_foldl_or {α : Type} (f : α → Word) (xs : List α) (w : Word) (j : Nat) :
    (xs.foldl (fun w x => w ||| f x) w).getLsbD j = (w.getLsbD j || xs.any fun x => (f x).getLsbD j) := by
  induction xs generalizing w with
  | nil => simp
  | cons x xs ih => rw [List.foldl_cons, ih, List.any_cons, BitVec.getLsbD_or, Bool.or_assoc]

/-- A number below 4 shifted to the place of group `g` reaches the two bits of that group alone. -/
theorem getLsbD_place {n : Nat} (hn : n < 4) (g i : Fin 16) (j : Nat) (hj : j < 2) :
    (BitVec.ofNat 32 n <<< (2 * g.val)).getLsbD (2 * i + j) = (decide (g = i) && n.testBit j) := by
  have hi : 2 * i.val + j < 32 := by omega
  rw [BitVec.getLsbD_shiftLeft, decide_eq_true hi, Bool.true_and, BitVec.getLsbD_ofNat]
  rcases lt_trichotomy g i with h | rfl | h
  · have hplace : 2 ≤ 2 * i.val + j - 2 * g.val := by omega
    have hbit : n.testBit (2 * i + j - 2 * g) = false :=
      Nat.testBit_lt_two_pow (lt_of_lt_of_le hn (Nat.pow_le_pow_right (n := 2) (by decide) hplace))
    simp [hbit, ne_of_lt h]
  · simp; omega
  · have hlt : 2 * i.val + j < 2 * g.val := by omega
    simp [hlt, ne_of_gt h]

theorem deviceWord1_field (s : State) (i : Fin 16) :
    s.deviceWord1.extractLsb' (2 * i) 2 = BitVec.ofNat 2 (s.groupState i).bits := by
  refine BitVec.eq_of_getLsbD_eq fun j hj => ?_
  have hlt : ∀ g, (s.groupState g).bits < 4 := fun g => by cases s.groupState g <;> decide
  rw [BitVec.getLsbD_extractLsb', decide_eq_true hj, Bool.true_and, State.deviceWord1, getLsbD_foldl_or]
  simp only [getLsbD_place (hlt _) _ i j hj]
  rw [BitVec.getLsbD_ofNat, decide_eq_true hj, Bool.true_and, Bool.eq_iff_iff]
  simp

/-- Settles O42. -/
theorem readWordsFollowTheirTables : Obligations.ReadWordsFollowTheirTables := by
  refine ⟨fun x => ?domain, fun s => ?device, fun r => ?history, fun r => ?lost⟩
  case domain =>
    obtain ⟨hopen, hdrain, hsample, hcommit, hrest⟩ := domWord0_fields x
    obtain ⟨hstate, hsched, hrecord, hepoch⟩ := domWord1_fields x
    refine ⟨hopen, hdrain, hsample, hcommit, hrest, hstate.trans ?_, hsched.trans ?_, hepoch, fun hi => ?_, fun b hb => ?_⟩
    · unfold DomState.bits
      cases x.state <;> rfl
    · unfold Sched.bits
      cases x.sched <;> rfl
    · rw [hrecord, hi]
      rfl
    · refine domWord1_record ?_
      rcases hb with hb | ⟨g, l, hb⟩ <;> rw [hb] <;> rfl
  case device =>
    obtain ⟨hfree, hheld, hrest⟩ := deviceWord0_fields s
    obtain ⟨hsome, hdom, hreason⟩ := heldBits_fields s.held
    obtain ⟨hvalid, hlost, hzero⟩ := recordWord_fields s
    obtain ⟨hdevice, hlength, hdom0, hdom1, hfence0, hphase0, hfence1, hphase1, hengine, hhigh⟩ := hrest
    refine ⟨hfree, (getLsbD_of_field (i := 0) hheld (by decide)).trans hsome,
      (getLsbD_of_field (i := 1) hheld (by decide)).trans hdom,
      ((extractLsb'_of_field (i := 2) hheld (by decide)).trans hreason).trans ?_, hdevice, hlength, hdom0, hdom1, hfence0,
      hphase0, hfence1, hphase1, hengine, hhigh, fun i => (deviceWord1_field s i).trans ?_, hvalid, hlost, hzero⟩
    · cases s.held with
      | none => rfl
      | some h => cases hr : h.reason <;> simp [hr, HeldReason.bits]
    · unfold GroupState.bits
      cases s.groupState i <;> rfl
  case history =>
    obtain ⟨hepoch, hserial⟩ := historyWord0_fields r
    obtain ⟨hcauses, hmerged, hfinal, hempty, hover, habandoned, -⟩ := historyWord1_fields r
    obtain ⟨hcommitted, hlost, hdrain, -⟩ := historyWord2_fields r
    obtain ⟨hwait, -⟩ := historyWord3_fields r
    obtain ⟨htimer, hline, hfill, hlink, hstop⟩ := causesBits_fields r.causes
    refine ⟨hepoch, hserial, fun w => history_serialByte r, (getLsbD_of_field (i := 0) hcauses (by decide)).trans htimer,
      (getLsbD_of_field (i := 1) hcauses (by decide)).trans hline, (getLsbD_of_field (i := 2) hcauses (by decide)).trans hfill,
      (getLsbD_of_field (i := 3) hcauses (by decide)).trans hlink, (getLsbD_of_field (i := 4) hcauses (by decide)).trans hstop,
      hmerged, hfinal, hempty, hover, habandoned, hcommitted, hlost, hdrain.trans ?_, hwait, history_flags r⟩
    unfold DrainState.bits
    cases r.drain <;> rfl
  case lost =>
    obtain ⟨hepoch, hstatus, hopen, h0, hwritten, hunwritten, h1⟩ := lostRecord_fields r
    refine ⟨hepoch, hstatus.trans ?_, hopen, h0, hwritten, hunwritten, h1⟩
    unfold DrainStatus.bits
    cases r.status <;> rfl

end Sys2Proof.Machine
end

section
/-! SUPPORT. Frames: their bits, their fields, and the check byte as a remainder (R149, R152, Table 10.6). -/

namespace Sys2Proof.Machine

/-! ### Frames: their bits, their fields, their check byte (R149, R152) -/

theorem frameBits_getElem? (f : Frame) (i j : Fin 8) :
    (frameBits f)[8 * i.val + j.val]? = some ((frameByte f i).getMsbD j) := by
  have hk : 8 * i.val + j.val < 64 := by omega
  have hbit : (frameByte f i).getMsbD j = f.getMsbD (8 * i.val + j.val) := by
    have hindex : 8 * (7 - i.val) + (8 - 1 - j.val) = 64 - 1 - (8 * i.val + j.val) := by omega
    simp only [frameByte, BitVec.getMsbD_eq_getLsbD, BitVec.getLsbD_extractLsb', hindex, j.isLt, hk, decide_true, Bool.true_and]
    rw [decide_eq_true (by omega), Bool.true_and]
  rw [hbit, frameBits, List.getElem?_map, List.getElem?_range hk]
  rfl

theorem frameSound_withCheck (b : BitVec 56) : frameSound (withCheck b) = true := by
  have hbody : (withCheck b).extractLsb' 8 56 = b := by
    unfold withCheck
    simp (disch := decide) only [BitVec.extractLsb'_append_eq_of_le, -Nat.reduceAdd]
    simp
  have hcheck : frameByte (withCheck b) 7 = crc8 b := by
    unfold frameByte withCheck
    simp (disch := decide) only [BitVec.extractLsb'_append_eq_of_add_le, -Nat.reduceAdd]
    simp
  rw [frameSound, hbody, hcheck, decide_eq_true rfl]

/-- The fields of a frame stand in its bytes (Table 10.6). -/
theorem withCheck_fields (b0 b1 tag : Byte) (data : Word) :
    frameByte (withCheck (b0 ++ b1 ++ data ++ tag)) 0 = b0 ∧ frameByte (withCheck (b0 ++ b1 ++ data ++ tag)) 1 = b1 ∧
    frameData (withCheck (b0 ++ b1 ++ data ++ tag)) = data ∧ frameByte (withCheck (b0 ++ b1 ++ data ++ tag)) 6 = tag := by
  unfold frameByte frameData withCheck
  simp (disch := decide) only [BitVec.extractLsb'_append_eq_of_add_le, BitVec.extractLsb'_append_eq_of_le, -Nat.reduceAdd]
  simp

/-! ### The check byte is a remainder (R152) -/

/-- The product of a frame, its bits the coefficients of a polynomial over GF(2), and x^8 + x^2 + x + 1. -/
def timesCheckPoly (m : Frame) : Frame := m <<< 8 ^^^ m <<< 2 ^^^ m <<< 1 ^^^ m

/-- A bit as a polynomial of degree 0. -/
def bitPoly (b : Bool) : Frame := if b then 1 else 0

theorem timesCheckPoly_xor (m n : Frame) : timesCheckPoly (m ^^^ n) = timesCheckPoly m ^^^ timesCheckPoly n := by
  simp only [timesCheckPoly, BitVec.shiftLeft_xor_distrib]
  ac_rfl

theorem timesCheckPoly_shiftLeft (m : Frame) : timesCheckPoly (m <<< 1) = timesCheckPoly m <<< 1 := by
  simp only [timesCheckPoly, BitVec.shiftLeft_xor_distrib, ← BitVec.shiftLeft_add]

/-- One bit into the CRC: the remainder times x, plus the bit at x^8, less a multiple of the polynomial. -/
theorem crcBit_eq : ∀ (c : Byte) (b : Bool), (crcBit c b).setWidth 64 =
    c.setWidth 64 <<< 1 ^^^ bitPoly b <<< 8 ^^^ timesCheckPoly (bitPoly (c.msb ^^ b)) := by decide

/-- The CRC after the first `k` bits. -/
def crcAfter (b : BitVec 56) (k : Nat) : Byte := (List.range k).foldl (fun c i => crcBit c (b.getMsbD i)) 0

theorem crcAfter_succ (b : BitVec 56) (k : Nat) : crcAfter b (k + 1) = crcBit (crcAfter b k) (b.getMsbD k) := by
  rw [crcAfter, List.range_succ, List.foldl_append]
  rfl

/-- The first `k` bits, as a polynomial. -/
def bitsBefore (b : BitVec 56) (k : Nat) : Frame := b.setWidth 64 >>> (56 - k)

theorem bitsBefore_succ (b : BitVec 56) {k : Nat} (hk : k < 56) :
    bitsBefore b (k + 1) = bitsBefore b k <<< 1 ^^^ bitPoly (b.getMsbD k) := by
  have hbit : ∀ i, (bitPoly (b.getMsbD k)).getLsbD i = (decide (i = 0) && b.getLsbD (55 - k)) := fun i => by
    rw [BitVec.getMsbD_eq_getLsbD, decide_eq_true hk, Bool.true_and, show 56 - 1 - k = 55 - k by omega]
    cases b.getLsbD (55 - k) <;> simp [bitPoly]
  refine BitVec.eq_of_getLsbD_eq fun i hi => ?_
  rw [BitVec.getLsbD_xor, hbit, BitVec.getLsbD_shiftLeft, bitsBefore, bitsBefore, BitVec.getLsbD_ushiftRight,
    BitVec.getLsbD_ushiftRight]
  rcases Nat.eq_zero_or_pos i with rfl | hpos
  · simp [show 56 - (k + 1) = 55 - k by omega]
    omega
  · have hindex : 56 - k + (i - 1) = 56 - (k + 1) + i := by omega
    simp [hindex, hi, hpos.ne']

/-- No bit of `m` stands at `k` or above. -/
def Below (m : Frame) (k : Nat) : Prop := ∀ i, k ≤ i → m.getLsbD i = false

theorem below_iff {m : Frame} {k : Nat} : Below m k ↔ m.toNat < 2 ^ k :=
  ⟨fun h => Nat.lt_pow_two_of_testBit _ h, fun h i hi =>
    Nat.testBit_lt_two_pow (lt_of_lt_of_le h (Nat.pow_le_pow_right (by decide) hi))⟩

theorem Below.shift {m : Frame} {k : Nat} (hm : Below m k) (b : Bool) : Below (m <<< 1 ^^^ bitPoly b) (k + 1) := by
  intro i hi
  have hbit : (bitPoly b).getLsbD i = false := by
    cases b
    · simp [bitPoly]
    · simp [bitPoly]; omega
  simp [hbit, hm (i - 1) (by omega)]

/-- The bits so far times x^8, plus the CRC so far, are a multiple of the polynomial. -/
theorem exists_quotient (b : BitVec 56) : ∀ k, k ≤ 56 → ∃ m, Below m k ∧
    bitsBefore b k <<< 8 ^^^ (crcAfter b k).setWidth 64 = timesCheckPoly m := by
  intro k
  induction k with
  | zero =>
    refine fun _ => ⟨0, fun i _ => by simp, ?_⟩
    have hnone : bitsBefore b 0 = 0 := by
      refine BitVec.eq_of_getLsbD_eq fun i _ => ?_
      simp [bitsBefore]
    rw [hnone]
    rfl
  | succ k ih =>
    intro hk
    obtain ⟨m, hm, h⟩ := ih (by omega)
    refine ⟨m <<< 1 ^^^ bitPoly ((crcAfter b k).msb ^^ b.getMsbD k), hm.shift _, ?_⟩
    rw [timesCheckPoly_xor, timesCheckPoly_shiftLeft, ← h, crcAfter_succ, crcBit_eq, bitsBefore_succ b (by omega),
      BitVec.shiftLeft_xor_distrib, BitVec.shiftLeft_xor_distrib, ← BitVec.shiftLeft_add, ← BitVec.shiftLeft_add]
    rw [Nat.add_comm 8 1]
    have hcancel : ∀ a c t x : Frame, a ^^^ x ^^^ (c ^^^ x ^^^ t) = a ^^^ c ^^^ t := fun a c t x => by
      rw [show a ^^^ x ^^^ (c ^^^ x ^^^ t) = a ^^^ c ^^^ t ^^^ (x ^^^ x) by ac_rfl, BitVec.xor_self, BitVec.xor_zero]
    exact hcancel _ _ _ _

/-- A frame is its bytes 0..6 times x^8, plus its byte 7. -/
theorem frame_eq (f : Frame) : f = (f.extractLsb' 8 56).setWidth 64 <<< 8 ^^^ (f.extractLsb' 0 8).setWidth 64 := by
  refine BitVec.eq_of_getLsbD_eq fun i hi => ?_
  simp only [BitVec.getLsbD_xor, BitVec.getLsbD_shiftLeft, BitVec.getLsbD_setWidth, BitVec.getLsbD_extractLsb', hi,
    decide_true, Bool.true_and, Nat.zero_add]
  by_cases h8 : i < 8
  · simp [h8]
  · rw [show 8 + (i - 8) = i by omega]
    simp [h8, show i - 8 < 56 by omega, show i - 8 < 64 by omega]

/-- A frame made of a body and its CRC is a multiple of the polynomial. -/
theorem exists_quotient_of_body (b : BitVec 56) : ∃ m, Below m 56 ∧
    b.setWidth 64 <<< 8 ^^^ (crc8 b).setWidth 64 = timesCheckPoly m := by
  have hall : bitsBefore b 56 = b.setWidth 64 := by simp [bitsBefore]
  have h := exists_quotient b 56 le_rfl
  rwa [hall] at h

/-- A multiple that stands below x^8 is 0: the top bit of `m` would stand at 8 above in it. -/
theorem eq_zero_of_timesCheckPoly {m : Frame} (hm : Below m 56) (h : Below (timesCheckPoly m) 8) : m = 0 := by
  have hdown : ∀ k, k ≤ 56 → Below m (56 - k) := by
    intro k
    induction k with
    | zero => exact fun _ => hm
    | succ k ih =>
      intro hk i hi
      have hab : Below m (56 - k) := ih (by omega)
      rcases Nat.lt_or_ge i (56 - k) with hlt | hge
      · have htop := h (i + 8) (by omega)
        rw [timesCheckPoly, BitVec.getLsbD_xor, BitVec.getLsbD_xor, BitVec.getLsbD_xor, BitVec.getLsbD_shiftLeft,
          BitVec.getLsbD_shiftLeft, BitVec.getLsbD_shiftLeft, hab (i + 8 - 2) (by omega), hab (i + 8 - 1) (by omega),
          hab (i + 8) (by omega), Nat.add_sub_cancel, decide_eq_true (show i + 8 < 64 by omega),
          decide_eq_false (show ¬i + 8 < 8 by omega)] at htop
        simpa only [Bool.not_false, Bool.true_and, Bool.and_false, Bool.xor_false] using htop
      · exact hab i hge
  refine BitVec.eq_of_getLsbD_eq fun i _ => ?_
  rw [hdown 56 le_rfl i (by omega)]
  simp

theorem below_setWidth (c : Byte) : Below (c.setWidth 64) 8 := fun i hi => by
  simp [BitVec.getLsbD_of_ge c i hi]

theorem Below.xor {m n : Frame} {k : Nat} (hm : Below m k) (hn : Below n k) : Below (m ^^^ n) k := fun i hi => by
  simp [hm i hi, hn i hi]

/-- A frame passes the check exactly when it is a multiple of the polynomial. -/
theorem frameSound_iff (f : Frame) : frameSound f = true ↔ ∃ m, Below m 56 ∧ f = timesCheckPoly m := by
  obtain ⟨q, hq, hbody⟩ := exists_quotient_of_body (f.extractLsb' 8 56)
  have hf := frame_eq f
  have hlow : frameByte f 7 = f.extractLsb' 0 8 := rfl
  rw [frameSound, decide_eq_true_eq, hlow]
  constructor
  · intro h
    rw [h, hbody] at hf
    exact ⟨q, hq, hf⟩
  · rintro ⟨m, hm, he⟩
    have hdiff : timesCheckPoly (m ^^^ q) = (f.extractLsb' 0 8).setWidth 64 ^^^ (crc8 (f.extractLsb' 8 56)).setWidth 64 := by
      have hcancel : ∀ a c t : Frame, a ^^^ c ^^^ (a ^^^ t) = c ^^^ t := fun a c t => by
        rw [show a ^^^ c ^^^ (a ^^^ t) = c ^^^ t ^^^ (a ^^^ a) by ac_rfl, BitVec.xor_self, BitVec.xor_zero]
      rw [timesCheckPoly_xor, ← he, ← hbody]
      exact (congrArg (· ^^^ _) hf).trans (hcancel _ _ _)
    have hzero : m ^^^ q = 0 := eq_zero_of_timesCheckPoly (hm.xor hq) (by
      rw [hdiff]; exact (below_setWidth _).xor (below_setWidth _))
    rw [hzero, show timesCheckPoly 0 = 0 by decide] at hdiff
    have hwide := congrArg (BitVec.setWidth 8) (BitVec.xor_eq_zero_iff.1 hdiff.symm)
    simpa using hwide

theorem response_frame_fields (r : Response) : frameSound r.frame = true ∧ frameByte r.frame 0 = r.flags ++ r.result.code ∧
    frameByte r.frame 1 = r.command ∧ frameData r.frame = r.data ∧ frameByte r.frame 6 = r.tag :=
  ⟨frameSound_withCheck _, withCheck_fields (r.flags ++ r.result.code) r.command r.tag r.data⟩

theorem commandFrame_fields (code arg : Byte) (data : Word) (tag : Byte) :
    frameSound (commandFrame code arg data tag) = true ∧
    frameByte (commandFrame code arg data tag) 0 = code ∧ frameByte (commandFrame code arg data tag) 1 = arg ∧
    frameData (commandFrame code arg data tag) = data ∧ frameByte (commandFrame code arg data tag) 6 = tag :=
  ⟨frameSound_withCheck _, withCheck_fields code arg tag data⟩

/-- The CRC of a body, where body and check byte are a multiple of the polynomial. -/
theorem crc8_of_multiple {f m : Frame} (hm : Below m 56) (hf : f = timesCheckPoly m) :
    crc8 (f.extractLsb' 8 56) = f.extractLsb' 0 8 :=
  (of_decide_eq_true ((frameSound_iff f).2 ⟨m, hm, hf⟩)).symm

/-- The manual's two examples (R152): the polynomial itself, and 0. -/
theorem crc8_one : crc8 1 = 0x07 :=
  crc8_of_multiple (f := 0x107) (m := 1) (below_iff.2 (by decide)) (by decide)

theorem crc8_zero : crc8 0 = 0x00 :=
  crc8_of_multiple (f := 0) (m := 0) (below_iff.2 (by decide)) (by decide)

/-- Settles O38. -/
theorem framesCarryTheirFieldsAndPassTheCheck : Obligations.FramesCarryTheirFieldsAndPassTheCheck := by
  refine ⟨frameBits_getElem?, response_frame_fields, fun code arg tag data => commandFrame_fields code arg data tag,
    fun f => ?_, crc8_one, crc8_zero, rfl, rfl, rfl, rfl,
    rfl, rfl, rfl, rfl, rfl, rfl⟩
  rw [frameSound_iff]
  exact exists_congr fun m => and_congr_left fun _ => below_iff

end Sys2Proof.Machine
end
